-- ==== Sys2Proof/Word.lean ====
section
/-! DEFINITION. The word types of the block's ports and command word (spec/20_memory.md R40, spec/30_encoding.md R71).
Every value is an unsigned integer of a stated width (spec/00_scope.md R11, R14), so a value of width `n` is a
`BitVec n` and no width is changed silently. -/

namespace Sys2Proof

/-- An operand or result port, 128 bits wide: OPA, OPB, RES0, RES1 (R40). -/
abbrev Port := BitVec 128

/-- The command word CMD (R40, R70). -/
abbrev CommandWord := BitVec 32

/-- The immediate field `imm8` of the command word (R71, R72). -/
abbrev Imm8 := BitVec 8

/-- The STATUS field of a response (R40, R301). -/
abbrev Status := BitVec 4

end Sys2Proof
end

