-- ==== Sys2Proof/Machine/State.lean ====
section
/-! DEFINITION. The state of the block and of its two channels, as plain data (spec/10_state.md, spec/20_memory.md).

The block's own state is the six elements of R23: `state`, `inc` and `seeded` of each engine, held as R32 declares
them. It has no general registers (R20), no program counter (R21), no flags (R22), no memory (R24) and no control
registers (R34). Beside it stand the host's side of the interface (R40): what waits on the request channel and the
RESET input, in the order it reaches the block, and what the response channel has carried. -/

namespace Sys2Proof.Machine

/-- A seeded engine with an LCG state of `S` bits: `E.state` and `E.inc` (R23). -/
structure EngineState (S : Nat) where
  /-- The LCG state; every bit is significant (R23). -/
  state : BitVec S
  /-- The LCG increment; odd in every reachable state (R25). -/
  inc : BitVec S
  deriving DecidableEq, Repr

/-- The block's six state elements (R23, R32). An engine is `none` exactly when its `seeded` flag is 0: then `state`
and `inc` hold no value, and no number stands for them (R27, R30). -/
structure CoreState where
  /-- Engine-32: `E32.seeded`, `E32.state`, `E32.inc`. -/
  e32 : Option (EngineState 64)
  /-- Engine-64: `E64.seeded`, `E64.state`, `E64.inc`. -/
  e64 : Option (EngineState 128)
  deriving DecidableEq, Repr

/-- `E32.seeded` (R27). -/
def CoreState.seeded32 (c : CoreState) : Bool := c.e32.isSome

/-- `E64.seeded` (R27). -/
def CoreState.seeded64 (c : CoreState) : Bool := c.e64.isSome

/-- Both engines unseeded: the block after RESET (R340). -/
def CoreState.unseeded : CoreState := { e32 := none, e64 := none }

/-- One request: the fields of the request channel (R40, R43). -/
structure Request where
  /-- CMD, the command word. -/
  cmd : CommandWord
  /-- OPA, the first operand port. -/
  opa : Port
  /-- OPB, the second operand port. -/
  opb : Port
  deriving DecidableEq, Repr

/-- The three faults the block reports (R301). -/
inductive FaultCode where
  /-- A zero divisor or a zero bound (R302). -/
  | divZero
  /-- A command word that is not legal (R303). -/
  | illegalCmd
  /-- A draw or an advance of an engine that was not seeded (R304). -/
  | notSeeded
  deriving DecidableEq, Repr

/-- One response (R40, R43). On a fault it carries no result at all (R41, R310). -/
inductive Response where
  | ok (res0 res1 : Port)
  | fault (code : FaultCode)
  deriving DecidableEq, Repr

/-- What reaches the block from outside, one entry per step. -/
inductive Input where
  /-- A request that is accepted and runs to completion (R43). -/
  | command (r : Request)
  /-- A request that is accepted and abandoned because RESET is asserted before its response (R340). -/
  | abandoned (r : Request)
  /-- RESET asserted and released while the block is idle (R340). -/
  | reset
  deriving DecidableEq, Repr

/-- The machine: the block, the inputs that wait for it in the order it will accept them (R44, R50), and the
responses it has produced, oldest first (R40). The two lists are the model's own record of the two channels (log
entries 2 and 3); the block itself remembers neither. -/
structure State where
  core : CoreState
  inputs : List Input
  responses : List Response
  deriving DecidableEq, Repr

/-- How the computation of one command ends. -/
inductive CommandResult where
  /-- `return (res0, res1)` (spec/00_scope.md R13), with the engines as the command leaves them. -/
  | done (core : CoreState) (res0 res1 : Port)
  /-- `raise code` (R13, R310): no result, no state written. -/
  | raised (code : FaultCode)
  /-- A rejection loop that has no accepted draw: the command never ends (R214, R244). -/
  | endless
  deriving DecidableEq, Repr

/-- Why the machine stops. No fault of the block is among these: a fault of the block is a response (R301), after
which the block goes on (R311). -/
inductive Fault where
  /-- Raised by a meaning that is run where no request is presented: the next input is absent, a RESET, or an
  abandoned request. `step` never raises it. SAFE: it is a stop, and no rule gives a command without a request
  (log entry 7). -/
  | noRequest
  /-- Raised by BNEXT32 and BNEXT64 when no draw the engine can ever make is accepted: the command never ends and
  produces no response (spec/93_implementation_defined.md U3). It needs an even increment, which no reachable state
  has (R25). SAFE: the machine is stuck and returns no value (log entry 6). -/
  | drawNeverAccepted
  deriving DecidableEq, Repr

/-- Why an instruction has no meaning. -/
inductive Refusal where
  /-- Raised by an arm of `exec` whose instruction has no meaning yet; no arm is left so. SAFE: it is a stop. -/
  | notModelled (mnemonic : String)
  deriving DecidableEq, Repr

/-- The machine right after reset: both engines unseeded, nothing else (R30, R340); no input waits and no response has
been produced (log entry 8). -/
def State.reset : State := { core := CoreState.unseeded, inputs := [], responses := [] }

end Sys2Proof.Machine
end

