-- ==== Sys2Proof/Machine/Operands.lean ====
section
/-! DEFINITION. How values lie on the ports (spec/20_memory.md R41, R42, R46; spec/30_encoding.md R73, R83): a value of
width `k` is on bits `k-1..0`; on a request port the bits above are ignored, on a response port they are zero. -/

namespace Sys2Proof.Machine

/-- `trunc_K` (spec/00_scope.md R13, spec/41_wide_bitwise_shift_compare.md R128): the low `k` bits. -/
def truncN {n : Nat} (k : Nat) (v : BitVec n) : BitVec k := v.setWidth k

/-- `zext_K` (R13): the same integer at width `k`, which is at least `n` wherever it is used. -/
def zextN {n : Nat} (k : Nat) (v : BitVec n) : BitVec k := v.setWidth k

/-- The operand of width `k` on OPA (R41). -/
def opA (k : Nat) (r : Request) : BitVec k := truncN k r.opa

/-- The operand of width `k` on OPB (R41). -/
def opB (k : Nat) (r : Request) : BitVec k := truncN k r.opb

/-- A result of width `k` on RES0 or RES1 (R41). -/
def onPort {k : Nat} (v : BitVec k) : Port := zextN 128 v

/-- A result port of width 0: all zero on an OK response (R46). -/
def unusedPort : Port := 0

end Sys2Proof.Machine
end

