-- ==== Sys2Proof/Machine/Ops.lean ====
section
/-! DEFINITION. The named operations over the machine: serving a request, taking a fault, the RESET input, and the two
engines (spec/20_memory.md R43, R44; spec/60_exceptions.md R310, R311; spec/70_reset_and_hazards.md R340). -/

namespace Sys2Proof.Machine

/-- The request at the head of `inputs` has been served: it leaves the request channel, `rest` waits on, and its one
response is produced (R40, R43, R50). -/
def State.respond (s : State) (rest : List Input) (core : CoreState) (resp : Response) : State :=
  { core := core, inputs := rest, responses := s.responses ++ [resp] }

/-- TAKING A FAULT, the one operation every fault goes through (R310): the command ends, its response has the fault's
status and no result, and no state element is written. Nothing is entered, so nothing returns: the block is idle and
serves the next request (R311). -/
def State.raiseFault (s : State) (rest : List Input) (code : FaultCode) : State :=
  s.respond rest s.core (.fault code)

/-- RESET (R340): both engines unseeded, no response; a request not yet accepted waits on. -/
def State.resetBlock (s : State) (rest : List Input) : State :=
  { s with core := CoreState.unseeded, inputs := rest }

/-- How a command ends: with its response, with a fault, or never (R43, R310, R214). -/
def State.settle (s : State) (rest : List Input) (result : CommandResult) : Host.Outcome State Fault Refusal :=
  match result with
  | .done core res0 res1 => .next (s.respond rest core (.ok res0 res1))
  | .raised code => .next (s.raiseFault rest code)
  | .endless => .fault .drawNeverAccepted

/-- One command as one atomic transition (R43): `f` is the command's function of the request and the engines. -/
def runCommand (s : State) (f : Request → CoreState → CommandResult) :
    Host.Outcome State Fault Refusal :=
  match s.inputs with
  | .command r :: rest => s.settle rest (f r s.core)
  | _ => .fault .noRequest

/-- A command of the arithmetic group: a function of the request alone that writes no state and never faults
(spec/10_state.md R20, R47, R305). -/
def runArith (s : State) (f : Request → Port × Port) : Host.Outcome State Fault Refusal :=
  runCommand s fun r core => .done core (f r).1 (f r).2

/-- An arithmetic command with one result; RES1 is zero (R13, R46). -/
def runArith1 (s : State) (f : Request → Port) : Host.Outcome State Fault Refusal :=
  runArith s fun r => (f r, unusedPort)

/-- A command of Engine-32 that needs it seeded: NOT_SEEDED otherwise, before anything else is looked at
(R304, R308). -/
def runEngine32 (s : State) (f : Request → CoreState → EngineState 64 → CommandResult) :
    Host.Outcome State Fault Refusal :=
  runCommand s fun r core =>
    match core.e32 with
    | none => .raised .notSeeded
    | some e => f r core e

/-- A command of Engine-64 that needs it seeded (R304, R308). -/
def runEngine64 (s : State) (f : Request → CoreState → EngineState 128 → CommandResult) :
    Host.Outcome State Fault Refusal :=
  runCommand s fun r core =>
    match core.e64 with
    | none => .raised .notSeeded
    | some e => f r core e

/-- `E32.state`, `E32.inc` and `E32.seeded` all written (R28, R210). -/
def CoreState.seedE32 (c : CoreState) (state inc : BitVec 64) : CoreState :=
  { c with e32 := some { state := state, inc := inc } }

/-- `E64.state`, `E64.inc` and `E64.seeded` all written (R28, R240). -/
def CoreState.seedE64 (c : CoreState) (state inc : BitVec 128) : CoreState :=
  { c with e64 := some { state := state, inc := inc } }

/-- `E32.state <- state` on the seeded engine `e`; `inc` stays (R28). -/
def CoreState.moveE32 (c : CoreState) (e : EngineState 64) (state : BitVec 64) : CoreState :=
  { c with e32 := some { e with state := state } }

/-- `E64.state <- state` on the seeded engine `e`; `inc` stays (R28). -/
def CoreState.moveE64 (c : CoreState) (e : EngineState 128) (state : BitVec 128) : CoreState :=
  { c with e64 := some { e with state := state } }

/-- The STATUS code of a fault (R301). -/
def FaultCode.status : FaultCode → Status
  | .divZero => 1
  | .illegalCmd => 2
  | .notSeeded => 3

/-- The STATUS field of a response: 0 is OK (R301). -/
def Response.status : Response → Status
  | .ok _ _ => 0
  | .fault code => code.status

end Sys2Proof.Machine
end

