-- ==== Sys2Proof/Machine/AddSub.lean ====
section
/-! DEFINITION. The wide-integer adder/subtractor: ADD, SUB, NEG at 64 and 128 bits (spec/40_wide_addsub.md). -/

namespace Sys2Proof.Machine

/-- `~_N a = (2^N - 1) - a`, bit by bit (spec/41_wide_bitwise_shift_compare.md R121). -/
def notN {n : Nat} (a : BitVec n) : BitVec n := ~~~a

/-- `add_N(a, b) = (a + b) mod 2^N` (R100). -/
def addN {n : Nat} (a b : BitVec n) : BitVec n := BitVec.ofNat n (a.toNat + b.toNat)

/-- `neg_N(v) = (~_N v + 1) mod 2^N` (R102). -/
def negN {n : Nat} (v : BitVec n) : BitVec n := addN (notN v) 1

/-- `sub_N(a, b) = add_N(a, neg_N(b))` (R103). -/
def subN {n : Nat} (a b : BitVec n) : BitVec n := addN a (negN b)

/-- ADD64 (R106). -/
def execAdd64 (s : State) : Host.Outcome State Fault Refusal :=
  runArith1 s fun r => onPort (addN (opA 64 r) (opB 64 r))

/-- ADD128 (R107). -/
def execAdd128 (s : State) : Host.Outcome State Fault Refusal :=
  runArith1 s fun r => onPort (addN (opA 128 r) (opB 128 r))

/-- SUB64 (R108). -/
def execSub64 (s : State) : Host.Outcome State Fault Refusal :=
  runArith1 s fun r => onPort (subN (opA 64 r) (opB 64 r))

/-- SUB128 (R109). -/
def execSub128 (s : State) : Host.Outcome State Fault Refusal :=
  runArith1 s fun r => onPort (subN (opA 128 r) (opB 128 r))

/-- NEG64 (R110). -/
def execNeg64 (s : State) : Host.Outcome State Fault Refusal :=
  runArith1 s fun r => onPort (negN (opA 64 r))

/-- NEG128 (R111). -/
def execNeg128 (s : State) : Host.Outcome State Fault Refusal :=
  runArith1 s fun r => onPort (negN (opA 128 r))

end Sys2Proof.Machine
end

