-- ==== Sys2Proof/Machine/Flags.lean ====
section
/-! DEFINITION. There are no flags and no condition codes (spec/10_state.md R22): no command leaves a carry, zero,
overflow or comparison flag behind. What other machines keep in flags is here a value: the 1-bit result of a comparison
(R22, spec/41_wide_bitwise_shift_compare.md R125, R126) and the carry inside one limb addition
(spec/40_wide_addsub.md R101), which is internal to that addition. -/

namespace Sys2Proof.Machine

/-- The 1-bit result of a comparison: 1 for true, 0 for false (R125, R126). -/
def truthBit (b : Bool) : BitVec 1 := BitVec.ofBool b

/-- The carry out of the low limb addition that gave `lo`, as a limb: 1 if `lo` is below the addend `al` (R101). -/
def limbCarry {h : Nat} (lo al : BitVec h) : BitVec h := if lo < al then 1 else 0

end Sys2Proof.Machine
end

