-- ==== Sys2Proof/Syntax.lean ====
section
/-! DEFINITION. The instructions of the WPCG command set, version 1: one constructor per row of spec/opcode_table.json
(spec/30_encoding.md R74). The operands travel beside the command word, on OPA and OPB (R70, R73), so the only operand
an instruction itself carries is the immediate of SHL, SHR and TRUNC (R72). -/

namespace Sys2Proof

/-- The 38 instructions (R74). A name ends in the width of the wide integers (64, 128) or, for an engine command, in
the width of the engine's output (32, 64). -/
inductive Instr where
  -- 40_wide_addsub.md
  | add64
  | add128
  | sub64
  | sub128
  | neg64
  | neg128
  -- 41_wide_bitwise_shift_compare.md
  | and64
  | and128
  | or64
  | or128
  | xor64
  | xor128
  | not64
  | not128
  /-- SHL64 by `n` places (R141). -/
  | shl64 (n : Imm8)
  /-- SHL128 by `n` places (R142). -/
  | shl128 (n : Imm8)
  /-- SHR64 by `n` places (R143). -/
  | shr64 (n : Imm8)
  /-- SHR128 by `n` places (R144). -/
  | shr128 (n : Imm8)
  | eq64
  | eq128
  | lt64
  | lt128
  /-- TRUNC64 to `k` bits (R145). -/
  | trunc64 (k : Imm8)
  /-- TRUNC128 to `k` bits (R146). -/
  | trunc128 (k : Imm8)
  -- 42_wide_multiply.md
  | mul64
  | mul128
  | mulw64
  | mulw128
  -- 43_wide_divide.md
  | divrem64
  | divrem128
  -- 44_engine32.md, 45_engine64.md
  | seed32
  | seed64
  | next32
  | next64
  | bnext32
  | bnext64
  | advance32
  | advance64
  deriving DecidableEq, Repr

end Sys2Proof
end

