-- ==== Sys2Proof/WellFormed.lean ====
section
/-! DEFINITION. Which terms of `Instr` the command set has (spec/30_encoding.md R72, R76 items 4 and 5): the target
width of a cast is one the command set provides. A shift amount is never ill-formed: all 256 are legal (R72). -/

namespace Sys2Proof

/-- The target widths of TRUNC64 (R145). -/
def castWidths64 : List Imm8 := [8, 16, 32]

/-- The target widths of TRUNC128 (R146). -/
def castWidths128 : List Imm8 := [8, 16, 32, 64]

/-- Every check on an instruction's fields. -/
def Instr.wellFormed : Instr → Bool
  | .trunc64 k => castWidths64.contains k
  | .trunc128 k => castWidths128.contains k
  | .shl64 _ | .shl128 _ | .shr64 _ | .shr128 _ => true
  | .add64 | .add128 | .sub64 | .sub128 | .neg64 | .neg128 => true
  | .and64 | .and128 | .or64 | .or128 | .xor64 | .xor128 | .not64 | .not128 => true
  | .eq64 | .eq128 | .lt64 | .lt128 => true
  | .mul64 | .mul128 | .mulw64 | .mulw128 | .divrem64 | .divrem128 => true
  | .seed32 | .seed64 | .next32 | .next64 | .bnext32 | .bnext64 | .advance32 | .advance64 => true

/-- `i` is an instruction of the command set. -/
abbrev Instr.WellFormed (i : Instr) : Prop := i.wellFormed = true

end Sys2Proof
end

