-- ==== Sys2Proof/Machine/Bitwise.lean ====
section
/-! DEFINITION. The wide-integer bitwise, shift, compare and cast unit: AND, OR, XOR, NOT, SHL, SHR, EQ, LT, TRUNC at
64 and 128 bits (spec/41_wide_bitwise_shift_compare.md). -/

namespace Sys2Proof.Machine

/-- `and_N` (R120). -/
def andN {n : Nat} (a b : BitVec n) : BitVec n := a &&& b

/-- `or_N` (R120). -/
def orN {n : Nat} (a b : BitVec n) : BitVec n := a ||| b

/-- `xor_N` (R120). -/
def xorN {n : Nat} (a b : BitVec n) : BitVec n := a ^^^ b

/-- `shl_N(a, n)`: `a * 2^n mod 2^N` below the width, 0 from the width on (R122). -/
def shlN {n : Nat} (a : BitVec n) (amount : Nat) : BitVec n :=
  if amount < n then BitVec.ofNat n (a.toNat * 2 ^ amount) else 0

/-- `shr_N(a, n)`: `floor(a / 2^n)` below the width, 0 from the width on (R123). -/
def shrN {n : Nat} (a : BitVec n) (amount : Nat) : BitVec n :=
  if amount < n then BitVec.ofNat n (a.toNat / 2 ^ amount) else 0

/-- `eq_N(a, b)` (R125). -/
def eqN {n : Nat} (a b : BitVec n) : BitVec 1 := truthBit (a == b)

/-- The unsigned order on whole values (R126). -/
def ltB {n : Nat} (a b : BitVec n) : Bool := a.toNat < b.toNat

/-- `lt_N(a, b)` (R126). -/
def ltN {n : Nat} (a b : BitVec n) : BitVec 1 := truthBit (ltB a b)

/-- AND64 (R129). -/
def execAnd64 (s : State) : Host.Outcome State Fault Refusal :=
  runArith1 s fun r => onPort (andN (opA 64 r) (opB 64 r))

/-- AND128 (R130). -/
def execAnd128 (s : State) : Host.Outcome State Fault Refusal :=
  runArith1 s fun r => onPort (andN (opA 128 r) (opB 128 r))

/-- OR64 (R131). -/
def execOr64 (s : State) : Host.Outcome State Fault Refusal :=
  runArith1 s fun r => onPort (orN (opA 64 r) (opB 64 r))

/-- OR128 (R132). -/
def execOr128 (s : State) : Host.Outcome State Fault Refusal :=
  runArith1 s fun r => onPort (orN (opA 128 r) (opB 128 r))

/-- XOR64 (R133). -/
def execXor64 (s : State) : Host.Outcome State Fault Refusal :=
  runArith1 s fun r => onPort (xorN (opA 64 r) (opB 64 r))

/-- XOR128 (R134). -/
def execXor128 (s : State) : Host.Outcome State Fault Refusal :=
  runArith1 s fun r => onPort (xorN (opA 128 r) (opB 128 r))

/-- NOT64: the complement is taken at width 64, so RES0[127:64] is zero (R139). -/
def execNot64 (s : State) : Host.Outcome State Fault Refusal :=
  runArith1 s fun r => onPort (notN (opA 64 r))

/-- NOT128 (R140). -/
def execNot128 (s : State) : Host.Outcome State Fault Refusal :=
  runArith1 s fun r => onPort (notN (opA 128 r))

/-- SHL64 (R141). -/
def execShl64 (n : Imm8) (s : State) : Host.Outcome State Fault Refusal :=
  runArith1 s fun r => onPort (shlN (opA 64 r) n.toNat)

/-- SHL128 (R142). -/
def execShl128 (n : Imm8) (s : State) : Host.Outcome State Fault Refusal :=
  runArith1 s fun r => onPort (shlN (opA 128 r) n.toNat)

/-- SHR64 (R143). -/
def execShr64 (n : Imm8) (s : State) : Host.Outcome State Fault Refusal :=
  runArith1 s fun r => onPort (shrN (opA 64 r) n.toNat)

/-- SHR128 (R144). -/
def execShr128 (n : Imm8) (s : State) : Host.Outcome State Fault Refusal :=
  runArith1 s fun r => onPort (shrN (opA 128 r) n.toNat)

/-- EQ64 (R135). -/
def execEq64 (s : State) : Host.Outcome State Fault Refusal :=
  runArith1 s fun r => onPort (eqN (opA 64 r) (opB 64 r))

/-- EQ128 (R136). -/
def execEq128 (s : State) : Host.Outcome State Fault Refusal :=
  runArith1 s fun r => onPort (eqN (opA 128 r) (opB 128 r))

/-- LT64 (R137). -/
def execLt64 (s : State) : Host.Outcome State Fault Refusal :=
  runArith1 s fun r => onPort (ltN (opA 64 r) (opB 64 r))

/-- LT128 (R138). -/
def execLt128 (s : State) : Host.Outcome State Fault Refusal :=
  runArith1 s fun r => onPort (ltN (opA 128 r) (opB 128 r))

/-- A cast of the `n`-bit operand to `k` bits, where `k` is one of `widths`; any other `k` is ILLEGAL_CMD (R145, R146).
`decode` never gives such a `k` (R76), so that case is of a hand-written term only (log entry 9). -/
def runCast (s : State) (n : Nat) (widths : List Imm8) (k : Imm8) : Host.Outcome State Fault Refusal :=
  runCommand s fun r core =>
    if widths.contains k then .done core (onPort (truncN k.toNat (opA n r))) unusedPort else .raised .illegalCmd

/-- TRUNC64 (R145). -/
def execTrunc64 (k : Imm8) (s : State) : Host.Outcome State Fault Refusal :=
  runCast s 64 castWidths64 k

/-- TRUNC128 (R146). -/
def execTrunc128 (k : Imm8) (s : State) : Host.Outcome State Fault Refusal :=
  runCast s 128 castWidths128 k

end Sys2Proof.Machine
end

