-- ==== Sys2Proof/Machine/Multiply.lean ====
section
/-! DEFINITION. The wide-integer multiplier with widening: MUL, MULW at 64 and 128 bits (spec/42_wide_multiply.md). -/

namespace Sys2Proof.Machine

/-- `mul_N(a, b) = a * b mod 2^N` (R150). -/
def mulN {n : Nat} (a b : BitVec n) : BitVec n := BitVec.ofNat n (a.toNat * b.toNat)

/-- `mulw_N(a, b) = a * b`, exact, at twice the width (R151). -/
def mulwN {n : Nat} (a b : BitVec n) : BitVec (n + n) := BitVec.ofNat (n + n) (a.toNat * b.toNat)

/-- MUL64 (R156). -/
def execMul64 (s : State) : Host.Outcome State Fault Refusal :=
  runArith1 s fun r => onPort (mulN (opA 64 r) (opB 64 r))

/-- MUL128 (R157). -/
def execMul128 (s : State) : Host.Outcome State Fault Refusal :=
  runArith1 s fun r => onPort (mulN (opA 128 r) (opB 128 r))

/-- MULW64: the whole product on RES0 (R158). -/
def execMulw64 (s : State) : Host.Outcome State Fault Refusal :=
  runArith1 s fun r => onPort (mulwN (opA 64 r) (opB 64 r))

/-- MULW128: the low half of the product on RES0, the high half on RES1 (R159). -/
def execMulw128 (s : State) : Host.Outcome State Fault Refusal :=
  runArith s fun r =>
    let p := mulwN (opA 128 r) (opB 128 r)
    (onPort (p.extractLsb' 0 128), onPort (p.extractLsb' 128 128))

end Sys2Proof.Machine
end

