-- ==== Sys2Proof/Machine/Divide.lean ====
section
/-! DEFINITION. The wide-integer divider: DIVREM at 64 and 128 bits, and the reference bisection
(spec/43_wide_divide.md). The meanings use the contract of R170, which alone is normative (U10 of
spec/93_implementation_defined.md); `bisectDivremN` is the search of R175, which gives the same pair. -/

namespace Sys2Proof.Machine

/-- `divrem_N(a, b)`: the quotient and the remainder (R170); none for a zero divisor, whatever `a` is (R171). -/
def divremN {n : Nat} (a b : BitVec n) : Option (BitVec n × BitVec n) :=
  if b = 0 then none else some (BitVec.ofNat n (a.toNat / b.toNat), BitVec.ofNat n (a.toNat % b.toNat))

/-- The loop of R175 from `lo` and `hi`, in at most the given number of passes: the upper midpoint, and the widened
product compared with the widened dividend (R174). -/
def bisectLoop {n : Nat} (a b : BitVec n) : Nat → BitVec n → BitVec n → BitVec n
  | 0, lo, _ => lo
  | passes + 1, lo, hi =>
    if lo.toNat < hi.toNat then
      let mid := addN lo (shrN (addN (subN hi lo) 1) 1)
      if (mulwN mid b).toNat ≤ (zextN (n + n) a).toNat then bisectLoop a b passes mid hi
      else bisectLoop a b passes lo (subN mid 1)
    else lo

/-- The reference algorithm of R175, with the fast paths of R172, the half-width path of R173, the bisection over
`[1, 2^N - 1]` in at most `N` passes, and the remainder of R176. -/
def bisectDivremN {n : Nat} (a b : BitVec n) : Option (BitVec n × BitVec n) :=
  if b = 0 then none
  else if b = 1 then some (a, 0)
  else if a = b then some (1, 0)
  else if a.toNat < b.toNat then some (0, a)
  else if a.toNat < 2 ^ (n / 2) ∧ b.toNat < 2 ^ (n / 2) then
    some (BitVec.ofNat n (a.toNat / b.toNat), BitVec.ofNat n (a.toNat % b.toNat))
  else
    let q := bisectLoop a b n 1 (BitVec.allOnes n)
    some (q, subN a (mulN q b))

/-- A division command: quotient on RES0, remainder on RES1, DIV_ZERO for a zero divisor (R178, R179, R302). -/
def runDivide (s : State) (n : Nat) : Host.Outcome State Fault Refusal :=
  runCommand s fun r core =>
    match divremN (opA n r) (opB n r) with
    | none => .raised .divZero
    | some (q, rem) => .done core (onPort q) (onPort rem)

/-- DIVREM64 (R178). -/
def execDivrem64 (s : State) : Host.Outcome State Fault Refusal := runDivide s 64

/-- DIVREM128 (R179). -/
def execDivrem128 (s : State) : Host.Outcome State Fault Refusal := runDivide s 128

end Sys2Proof.Machine
end

