-- ==== Sys2Proof/Machine/Advance.lean ====
section
/-! DEFINITION. The generalized jump-ahead unit, shared by both engines (spec/46_advance.md). -/

namespace Sys2Proof.Machine

/-- One step of the recurrence `state' = M * state + C` (R262). -/
def stepN {n : Nat} (M C x : BitVec n) : BitVec n := addN (mulN x M) C

/-- The loop of R260, which stops when `delta` is 0: fold if the low bit is set, square with the old `curMult`, shift.
Each pass clears the low bit of `delta`, so `n` passes consume it all (R264). -/
def advanceLoop {n : Nat} :
    Nat → (delta accMult accPlus curMult curPlus : BitVec n) → BitVec n × BitVec n
  | 0, _, accMult, accPlus, _, _ => (accMult, accPlus)
  | passes + 1, delta, accMult, accPlus, curMult, curPlus =>
    if delta = 0 then (accMult, accPlus)
    else
      let fold := delta.getLsbD 0
      let accPlus' := if fold then addN (mulN accPlus curMult) curPlus else accPlus
      let accMult' := if fold then mulN accMult curMult else accMult
      advanceLoop passes (shrN delta 1) accMult' accPlus'
        (mulN curMult curMult) (mulN (addN curMult 1) curPlus)

/-- `advance_N(state, delta, M, C)` (R260). -/
def advanceN {n : Nat} (state delta M C : BitVec n) : BitVec n :=
  let (accMult, accPlus) := advanceLoop n delta 1 0 M C
  addN (mulN accMult state) accPlus

end Sys2Proof.Machine
end

