-- ==== Sys2Proof/Config.lean ====
section
/-! DEFINITION. What an implementation fixes and what the spec leaves open (spec/00_scope.md R8 to R10).

The widths are in the types (R3, R8, R10). The BACKEND parameter has no observable effect (R9) and is not carried.
No rule of the spec draws a value (spec/20_memory.md R43), so there is no free value here: where the spec says
"no value" (an unseeded engine, R27; the results of a faulting response, R41) the model holds no value at all.
The one parameter the spec leaves OPEN is FUEL, the bound on the rejection loop of BNEXT (R10, D26). -/

namespace Sys2Proof

/-- DEDUCED (log entry 6). FUEL, as a power of two: a bounded draw on an engine whose state is `stateWidth` bits wide
makes at most `2 ^ drawLevels stateWidth` draws, which is as many as the engine has states. A loop that has rejected
that many draws has come back to a state it drew from before, so it never ends: running out of this bound is the loop's
divergence itself, not an early stop (spec/44_engine32.md R214, spec/45_engine64.md R244). -/
def Config.drawLevels (stateWidth : Nat) : Nat := stateWidth

end Sys2Proof
end

