-- ==== Sys2Proof/Machine/Draw.lean ====
section
/-! DEFINITION. The rejection loop of a bounded draw, shared in form by both engines (spec/44_engine32.md R207, R214;
spec/45_engine64.md R237, R244). -/

namespace Sys2Proof.Machine

/-- What a number of draws ends with. -/
inductive Draws (S W : Nat) where
  /-- A draw `r` was not below the threshold; `state` is the state after it. -/
  | accepted (state : BitVec S) (r : BitVec W)
  /-- Every draw was below the threshold; `state` is the state after the last. -/
  | rejected (state : BitVec S)
  deriving DecidableEq, Repr

/-- Up to `2 ^ level` draws `r = next()` from `state`, until one is not below the threshold `t` (R207): one draw, or
half of them and, if all of those were rejected, the other half. -/
def drawWithin {S W : Nat} (next : BitVec S → BitVec S × BitVec W) (t : BitVec W) :
    Nat → BitVec S → Draws S W
  | 0, state => if ltB (next state).2 t then .rejected (next state).1 else .accepted (next state).1 (next state).2
  | level + 1, state =>
    match drawWithin next t level state with
    | .accepted state' r => .accepted state' r
    | .rejected state' => drawWithin next t level state'

/-- How the command of a bounded draw ends: with the accepted draw, as `onAccept` answers it, or never (R214). -/
def answerDraw {S W : Nat} (draws : Draws S W) (onAccept : BitVec S → BitVec W → CommandResult) : CommandResult :=
  match draws with
  | .accepted state r => onAccept state r
  | .rejected _ => .endless

end Sys2Proof.Machine
end

