-- ==== Sys2Proof/Machine/Engine32.lean ====
section
/-! DEFINITION. The PCG-32 engine, "setseq xsh-rr 64/32": SEED32, NEXT32, BNEXT32, ADVANCE32
(spec/44_engine32.md). Its output is taken from the state before the step (R205). -/

namespace Sys2Proof.Machine

/-- MULTIPLIER64 (R200, spec/00_scope.md R8). -/
def multiplier64 : BitVec 64 := 0x5851F42D4C957F2D#64

/-- `step32(state, inc)` (R201). -/
def step32 (state inc : BitVec 64) : BitVec 64 := stepN multiplier64 inc state

/-- `rotr32(v, r)`, rotate right (R204). -/
def rotr32 (v : BitVec 32) (r : Nat) : BitVec 32 := orN (shrN v r) (shlN v ((32 - r) % 32))

/-- `output32(p)`, XSH-RR (R202). -/
def output32 (p : BitVec 64) : BitVec 32 :=
  rotr32 (truncN 32 (shrN (xorN (shrN p 18) p) 27)) (shrN p 59).toNat

/-- `seed32(initState, initSeq)`: the new state and the new increment (R203). -/
def seed32 (initState initSeq : BitVec 64) : BitVec 64 × BitVec 64 :=
  let inc := orN (shlN initSeq 1) 1
  let state := step32 0 inc
  let state := addN state initState
  (step32 state inc, inc)

/-- `next32(state, inc)`: the state after one step, and the output of the state before it (R205, R354). -/
def next32 (state inc : BitVec 64) : BitVec 64 × BitVec 32 := (step32 state inc, output32 state)

/-- `threshold32(bound) = ((2^32 - bound) mod 2^32) mod bound`, the negation at 32 bits (R206, R209). -/
def threshold32 (bound : BitVec 32) : BitVec 32 := BitVec.ofNat 32 ((negN bound).toNat % bound.toNat)

/-- The command of a bounded draw on the engine `e` (R207): DIV_ZERO before any draw for a zero bound (R208), else the
first accepted draw, reduced. -/
def bnext32 (core : CoreState) (e : EngineState 64) (bound : BitVec 32) : CommandResult :=
  if bound = 0 then .raised .divZero
  else
    answerDraw (drawWithin (next32 · e.inc) (threshold32 bound) (Config.drawLevels 64) e.state) fun state r =>
      .done (core.moveE32 e state) (onPort (BitVec.ofNat 32 (r.toNat % bound.toNat))) unusedPort

/-- SEED32 (R210). -/
def execSeed32 (s : State) : Host.Outcome State Fault Refusal :=
  runCommand s fun r core =>
    let (state, inc) := seed32 (opA 64 r) (opB 64 r)
    .done (core.seedE32 state inc) unusedPort unusedPort

/-- NEXT32 (R211). -/
def execNext32 (s : State) : Host.Outcome State Fault Refusal :=
  runEngine32 s fun _ core e =>
    let (state, out) := next32 e.state e.inc
    .done (core.moveE32 e state) (onPort out) unusedPort

/-- BNEXT32 (R212). -/
def execBnext32 (s : State) : Host.Outcome State Fault Refusal :=
  runEngine32 s fun r core e => bnext32 core e (opA 32 r)

/-- ADVANCE32 (R213). -/
def execAdvance32 (s : State) : Host.Outcome State Fault Refusal :=
  runEngine32 s fun r core e =>
    .done (core.moveE32 e (advanceN e.state (opA 64 r) multiplier64 e.inc)) unusedPort unusedPort

end Sys2Proof.Machine
end

