-- ==== Sys2Proof/Machine/Engine64.lean ====
section
/-! DEFINITION. The PCG-64 engine, "setseq xsl-rr 128/64": SEED64, NEXT64, BNEXT64, ADVANCE64
(spec/45_engine64.md). Its output is taken from the state after the step (R235), unlike Engine-32's. -/

namespace Sys2Proof.Machine

/-- MULTIPLIER128 (R230, spec/00_scope.md R8). UNVERIFIED by any source but the one document (log entry 12). -/
def multiplier128 : BitVec 128 := 0x2360ED051FC65DA44385DF649FCCF645#128

/-- `step64(state, inc)` (R231). -/
def step64 (state inc : BitVec 128) : BitVec 128 := stepN multiplier128 inc state

/-- `rotr64(v, r)`, rotate right (R234). -/
def rotr64 (v : BitVec 64) (r : Nat) : BitVec 64 := orN (shrN v r) (shlN v ((64 - r) % 64))

/-- `output64(p)`, XSL-RR: the high limb xor the low limb, rotated by the top 6 bits (R232). -/
def output64 (p : BitVec 128) : BitVec 64 :=
  rotr64 (xorN (p.extractLsb' 64 64) (p.extractLsb' 0 64)) ((truncN 32 (shrN p 122)).toNat % 64)

/-- `seed64(initState, initSeq)`: the new state and the new increment (R233). -/
def seed64 (initState initSeq : BitVec 128) : BitVec 128 × BitVec 128 :=
  let inc := orN (shlN initSeq 1) 1
  let state := step64 0 inc
  let state := addN state initState
  (step64 state inc, inc)

/-- `next64(state, inc)`: the state after one step, and the output of that state (R235, R354). -/
def next64 (state inc : BitVec 128) : BitVec 128 × BitVec 64 :=
  (step64 state inc, output64 (step64 state inc))

/-- `threshold64(bound)`, the remainder of `divrem_64(neg_64(bound), bound)` (R236); none for a zero bound, where that
division fails (R238). -/
def threshold64 (bound : BitVec 64) : Option (BitVec 64) := (divremN (negN bound) bound).map Prod.snd

/-- The command of a bounded draw on the engine `e` (R237): a zero bound fails in the threshold's division, before any
draw (R238); else the first accepted draw, reduced by the divider. -/
def bnext64 (core : CoreState) (e : EngineState 128) (bound : BitVec 64) : CommandResult :=
  match threshold64 bound with
  | none => .raised .divZero
  | some t =>
    answerDraw (drawWithin (next64 · e.inc) t (Config.drawLevels 128) e.state) fun state r =>
      match divremN r bound with
      | none => .raised .divZero
      | some (_, v) => .done (core.moveE64 e state) (onPort v) unusedPort

/-- SEED64 (R240). -/
def execSeed64 (s : State) : Host.Outcome State Fault Refusal :=
  runCommand s fun r core =>
    let (state, inc) := seed64 (opA 128 r) (opB 128 r)
    .done (core.seedE64 state inc) unusedPort unusedPort

/-- NEXT64 (R241). -/
def execNext64 (s : State) : Host.Outcome State Fault Refusal :=
  runEngine64 s fun _ core e =>
    let (state, out) := next64 e.state e.inc
    .done (core.moveE64 e state) (onPort out) unusedPort

/-- BNEXT64 (R242). -/
def execBnext64 (s : State) : Host.Outcome State Fault Refusal :=
  runEngine64 s fun r core e => bnext64 core e (opA 64 r)

/-- ADVANCE64 (R243). -/
def execAdvance64 (s : State) : Host.Outcome State Fault Refusal :=
  runEngine64 s fun r core e =>
    .done (core.moveE64 e (advanceN e.state (opA 128 r) multiplier128 e.inc)) unusedPort unusedPort

end Sys2Proof.Machine
end

