-- ==== Sys2Proof/Machine/Dispatch.lean ====
section
/-! DEFINITION. One arm per instruction, each one call of its meaning (spec/30_encoding.md R83). -/

namespace Sys2Proof.Machine

def exec (i : Instr) (s : State) : Host.Outcome State Fault Refusal :=
  match i with
  | .add64 => Sys2Proof.Machine.execAdd64 s
  | .add128 => Sys2Proof.Machine.execAdd128 s
  | .sub64 => Sys2Proof.Machine.execSub64 s
  | .sub128 => Sys2Proof.Machine.execSub128 s
  | .neg64 => Sys2Proof.Machine.execNeg64 s
  | .neg128 => Sys2Proof.Machine.execNeg128 s
  | .and64 => Sys2Proof.Machine.execAnd64 s
  | .and128 => Sys2Proof.Machine.execAnd128 s
  | .or64 => Sys2Proof.Machine.execOr64 s
  | .or128 => Sys2Proof.Machine.execOr128 s
  | .xor64 => Sys2Proof.Machine.execXor64 s
  | .xor128 => Sys2Proof.Machine.execXor128 s
  | .not64 => Sys2Proof.Machine.execNot64 s
  | .not128 => Sys2Proof.Machine.execNot128 s
  | .shl64 n => Sys2Proof.Machine.execShl64 n s
  | .shl128 n => Sys2Proof.Machine.execShl128 n s
  | .shr64 n => Sys2Proof.Machine.execShr64 n s
  | .shr128 n => Sys2Proof.Machine.execShr128 n s
  | .eq64 => Sys2Proof.Machine.execEq64 s
  | .eq128 => Sys2Proof.Machine.execEq128 s
  | .lt64 => Sys2Proof.Machine.execLt64 s
  | .lt128 => Sys2Proof.Machine.execLt128 s
  | .trunc64 k => Sys2Proof.Machine.execTrunc64 k s
  | .trunc128 k => Sys2Proof.Machine.execTrunc128 k s
  | .mul64 => Sys2Proof.Machine.execMul64 s
  | .mul128 => Sys2Proof.Machine.execMul128 s
  | .mulw64 => Sys2Proof.Machine.execMulw64 s
  | .mulw128 => Sys2Proof.Machine.execMulw128 s
  | .divrem64 => Sys2Proof.Machine.execDivrem64 s
  | .divrem128 => Sys2Proof.Machine.execDivrem128 s
  | .seed32 => Sys2Proof.Machine.execSeed32 s
  | .seed64 => Sys2Proof.Machine.execSeed64 s
  | .next32 => Sys2Proof.Machine.execNext32 s
  | .next64 => Sys2Proof.Machine.execNext64 s
  | .bnext32 => Sys2Proof.Machine.execBnext32 s
  | .bnext64 => Sys2Proof.Machine.execBnext64 s
  | .advance32 => Sys2Proof.Machine.execAdvance32 s
  | .advance64 => Sys2Proof.Machine.execAdvance64 s

end Sys2Proof.Machine
end

