-- ==== Sys2Proof/Decode.lean ====
section
/-! DEFINITION. The decoder of a command word and the encoder (spec/30_encoding.md R71, R74, R76, R81). The decoder is
total: a word it does not read it rejects by the clause of R76 that the word falls under. -/

namespace Sys2Proof

/-- Why a command word is illegal (R76). All four give the one status ILLEGAL_CMD (R303). -/
inductive Illegal where
  /-- Item 1: `z0` or `z1` is not zero (R75). -/
  | reservedBits
  /-- Item 2: `op` is none of the 19 operation codes of R74. -/
  | unassignedOpcode
  /-- Item 3: `imm8` is not zero and `op` takes no immediate. -/
  | strayImmediate
  /-- Items 4 and 5: a cast to a width the command set does not provide. -/
  | castWidth
  deriving DecidableEq, Repr

/-- Field `op`, bits 7:0 (R71). -/
def CommandWord.op (cmd : CommandWord) : BitVec 8 := cmd.extractLsb' 0 8

/-- Field `w`, bit 8 (R71). -/
def CommandWord.w (cmd : CommandWord) : Bool := cmd.getLsbD 8

/-- Reserved field `z0`, bits 15:9 (R71, R75). -/
def CommandWord.z0 (cmd : CommandWord) : BitVec 7 := cmd.extractLsb' 9 7

/-- Field `imm8`, bits 23:16 (R71, R72). -/
def CommandWord.imm8 (cmd : CommandWord) : Imm8 := cmd.extractLsb' 16 8

/-- Reserved field `z1`, bits 31:24 (R71, R75). -/
def CommandWord.z1 (cmd : CommandWord) : BitVec 8 := cmd.extractLsb' 24 8

/-- A row of R74 without an immediate: `imm8` must be zero (R72, R76 item 3); `w` selects the instruction. -/
def plainRow (imm8 : Imm8) (w : Bool) (i0 i1 : Instr) : Except Illegal Instr :=
  if imm8 = 0 then .ok (if w then i1 else i0) else .error .strayImmediate

/-- A shift row of R74: every `imm8` is a legal amount (R72). -/
def shiftRow (imm8 : Imm8) (w : Bool) (i0 i1 : Imm8 → Instr) : Except Illegal Instr :=
  .ok (if w then i1 imm8 else i0 imm8)

/-- The cast row of R74: `imm8` is a width the command set provides (R72, R76 items 4 and 5). -/
def castRow (imm8 : Imm8) (w : Bool) (i0 i1 : Imm8 → Instr) : Except Illegal Instr :=
  if (if w then castWidths128 else castWidths64).contains imm8
  then .ok (if w then i1 imm8 else i0 imm8) else .error .castWidth

/-- The opcode map of R74, row by row. -/
def decodeFields (op : BitVec 8) (w : Bool) (imm8 : Imm8) : Except Illegal Instr :=
  match op with
  | 0x01#8 => plainRow imm8 w .add64 .add128
  | 0x02#8 => plainRow imm8 w .sub64 .sub128
  | 0x03#8 => plainRow imm8 w .neg64 .neg128
  | 0x04#8 => plainRow imm8 w .and64 .and128
  | 0x05#8 => plainRow imm8 w .or64 .or128
  | 0x06#8 => plainRow imm8 w .xor64 .xor128
  | 0x07#8 => plainRow imm8 w .not64 .not128
  | 0x08#8 => shiftRow imm8 w .shl64 .shl128
  | 0x09#8 => shiftRow imm8 w .shr64 .shr128
  | 0x0A#8 => plainRow imm8 w .eq64 .eq128
  | 0x0B#8 => plainRow imm8 w .lt64 .lt128
  | 0x0C#8 => castRow imm8 w .trunc64 .trunc128
  | 0x10#8 => plainRow imm8 w .mul64 .mul128
  | 0x11#8 => plainRow imm8 w .mulw64 .mulw128
  | 0x18#8 => plainRow imm8 w .divrem64 .divrem128
  | 0x20#8 => plainRow imm8 w .seed32 .seed64
  | 0x21#8 => plainRow imm8 w .next32 .next64
  | 0x22#8 => plainRow imm8 w .bnext32 .bnext64
  | 0x23#8 => plainRow imm8 w .advance32 .advance64
  | _ => .error .unassignedOpcode

/-- The decoder (R81). -/
def decode (cmd : CommandWord) : Except Illegal Instr :=
  if cmd.z0 ≠ 0 ∨ cmd.z1 ≠ 0 then .error .reservedBits
  else decodeFields cmd.op cmd.w cmd.imm8

/-- The one format F0: `CMD = imm8 * 2^16 + w * 2^8 + op`, the reserved fields zero (R71). -/
def commandWord (op : BitVec 8) (w : Bool) (imm8 : Imm8) : CommandWord :=
  0#8 ++ imm8 ++ 0#7 ++ BitVec.ofBool w ++ op

/-- The command word of an instruction (R71, R74). -/
def encode : Instr → CommandWord
  | .add64 => commandWord 0x01 false 0
  | .add128 => commandWord 0x01 true 0
  | .sub64 => commandWord 0x02 false 0
  | .sub128 => commandWord 0x02 true 0
  | .neg64 => commandWord 0x03 false 0
  | .neg128 => commandWord 0x03 true 0
  | .and64 => commandWord 0x04 false 0
  | .and128 => commandWord 0x04 true 0
  | .or64 => commandWord 0x05 false 0
  | .or128 => commandWord 0x05 true 0
  | .xor64 => commandWord 0x06 false 0
  | .xor128 => commandWord 0x06 true 0
  | .not64 => commandWord 0x07 false 0
  | .not128 => commandWord 0x07 true 0
  | .shl64 n => commandWord 0x08 false n
  | .shl128 n => commandWord 0x08 true n
  | .shr64 n => commandWord 0x09 false n
  | .shr128 n => commandWord 0x09 true n
  | .eq64 => commandWord 0x0A false 0
  | .eq128 => commandWord 0x0A true 0
  | .lt64 => commandWord 0x0B false 0
  | .lt128 => commandWord 0x0B true 0
  | .trunc64 k => commandWord 0x0C false k
  | .trunc128 k => commandWord 0x0C true k
  | .mul64 => commandWord 0x10 false 0
  | .mul128 => commandWord 0x10 true 0
  | .mulw64 => commandWord 0x11 false 0
  | .mulw128 => commandWord 0x11 true 0
  | .divrem64 => commandWord 0x18 false 0
  | .divrem128 => commandWord 0x18 true 0
  | .seed32 => commandWord 0x20 false 0
  | .seed64 => commandWord 0x20 true 0
  | .next32 => commandWord 0x21 false 0
  | .next64 => commandWord 0x21 true 0
  | .bnext32 => commandWord 0x22 false 0
  | .bnext64 => commandWord 0x22 true 0
  | .advance32 => commandWord 0x23 false 0
  | .advance64 => commandWord 0x23 true 0

/-- The command word whose low `nbits` bits are those of `w` and whose other bits are zero. A command word is always
32 bits and is presented whole (R70), so there is no byte order (spec/20_memory.md R42). -/
def tableWord (nbits w : Nat) : CommandWord := BitVec.ofNat 32 (w % 2 ^ nbits)

/-- The instruction the decoder reads from the bits `w`, none where it refuses. -/
def decodeTableWord (nbits w : Nat) : Option Instr :=
  match decode (tableWord nbits w) with
  | .ok i => some i
  | .error _ => none

end Sys2Proof
end

