-- ==== Sys2Proof/Machine/Fetch.lean ====
section
/-! DEFINITION. What the block does next: it fetches no instruction from a memory (spec/10_state.md R21), it takes the
next input (spec/20_memory.md R43, R44; spec/70_reset_and_hazards.md R340). -/

namespace Sys2Proof.Machine

/-- What the next input makes the block do. -/
inductive Fetched where
  /-- No input waits: the block is idle. -/
  | idle
  /-- RESET, or a request that RESET abandons (R340); `rest` waits on. -/
  | reset (rest : List Input)
  /-- A request whose command word is illegal (R76); `rest` waits on. -/
  | illegal (rest : List Input)
  /-- A request whose command word is legal. -/
  | run (i : Instr)
  deriving DecidableEq, Repr

/-- The next input, decoded (R81). -/
def fetch (s : State) : Fetched :=
  match s.inputs with
  | [] => .idle
  | .reset :: rest => .reset rest
  | .abandoned _ :: rest => .reset rest
  | .command r :: rest =>
    match decode r.cmd with
    | .ok i => .run i
    | .error _ => .illegal rest

/-- `s` with `cmd` as the command word of the next request: the request that is next keeps its operands; where none is
next, one with zero operands is put before what waits (log entry 8). -/
def State.presentWord (s : State) (cmd : CommandWord) : State :=
  match s.inputs with
  | .command r :: rest => { s with inputs := .command { r with cmd := cmd } :: rest }
  | other => { s with inputs := .command { cmd := cmd, opa := 0, opb := 0 } :: other }

end Sys2Proof.Machine
end

