-- ==== Sys2Proof/Machine/Step.lean ====
section
/-! DEFINITION. One step of the machine: one whole command, or one RESET, or an idle block (spec/20_memory.md R43,
R44). -/

namespace Sys2Proof.Machine

/-- One step. An illegal command word takes the fault ILLEGAL_CMD (R76, R303); a block without an input stays as it is
(log entry 5). -/
def step (s : State) : Host.Outcome State Fault Refusal :=
  match fetch s with
  | .idle => .next s
  | .reset rest => .next (s.resetBlock rest)
  | .illegal rest => .next (s.raiseFault rest .illegalCmd)
  | .run i => exec i s

/-- `s` with the command word `w` presented next, so that `step` runs it (log entry 8). -/
def State.withFetchWord (s : State) (nbits w : Nat) : State := s.presentWord (tableWord nbits w)

end Sys2Proof.Machine
end

