-- ==== Sys2Proof/Machine/Limb.lean ====
section
/-! DEFINITION. The limb-level realisation of the wide-integer operations: the "emulated" BACKEND of
spec/00_scope.md R9, built on limbs of half the width (R12). It is a second realisation, not a second semantics: the
meanings of the commands use the integer definitions, and these give the same values. -/

namespace Sys2Proof.Machine

/-- A value of `2 * h` bits as two limbs of `h` bits (R12). -/
structure Limbs (h : Nat) where
  high : BitVec h
  low : BitVec h
  deriving DecidableEq, Repr

/-- `value = low + high * 2^h`, that is `{high, low}` (R12). -/
def Limbs.value {h : Nat} (v : Limbs h) : BitVec (h + h) := v.high ++ v.low

/-- `low(v)` and `high(v)` (R12). -/
def Limbs.ofValue {h : Nat} (v : BitVec (h + h)) : Limbs h :=
  { high := v.extractLsb' h h, low := v.extractLsb' 0 h }

/-- The limb adder with its internal carry (spec/40_wide_addsub.md R101). -/
def limbAdd {h : Nat} (a b : Limbs h) : Limbs h :=
  let lo := addN a.low b.low
  { high := addN (addN a.high b.high) (limbCarry lo a.low), low := lo }

/-- The complement, limb by limb (spec/41_wide_bitwise_shift_compare.md R121). -/
def limbNot {h : Nat} (a : Limbs h) : Limbs h := { high := notN a.high, low := notN a.low }

/-- `-v = ~v + 1` on limbs (R102). -/
def limbNeg {h : Nat} (a : Limbs h) : Limbs h := limbAdd (limbNot a) { high := 0, low := 1 }

/-- `a - b = a + (-b)` on limbs (R103). -/
def limbSub {h : Nat} (a b : Limbs h) : Limbs h := limbAdd a (limbNeg b)

/-- AND, limb by limb (R120). -/
def limbAnd {h : Nat} (a b : Limbs h) : Limbs h :=
  { high := andN a.high b.high, low := andN a.low b.low }

/-- OR, limb by limb (R120). -/
def limbOr {h : Nat} (a b : Limbs h) : Limbs h :=
  { high := orN a.high b.high, low := orN a.low b.low }

/-- XOR, limb by limb (R120). -/
def limbXor {h : Nat} (a b : Limbs h) : Limbs h :=
  { high := xorN a.high b.high, low := xorN a.low b.low }

/-- The left shift, case by case, so that no limb is ever shifted by 0 or by its whole width (R124, R352). -/
def limbShl {h : Nat} (a : Limbs h) (n : Nat) : Limbs h :=
  if n = 0 then a
  else if n < h then
    { high := orN (shlN a.high n) (shrN a.low (h - n)), low := shlN a.low n }
  else if n = h then { high := a.low, low := 0 }
  else if n < h + h then { high := shlN a.low (n - h), low := 0 }
  else { high := 0, low := 0 }

/-- The right shift, case by case (R124, R352). -/
def limbShr {h : Nat} (a : Limbs h) (n : Nat) : Limbs h :=
  if n = 0 then a
  else if n < h then
    { high := shrN a.high n, low := orN (shrN a.low n) (shlN a.high (h - n)) }
  else if n = h then { high := 0, low := a.high }
  else if n < h + h then { high := 0, low := shrN a.high (n - h) }
  else { high := 0, low := 0 }

/-- Equality, limb by limb (R125). -/
def limbEq {h : Nat} (a b : Limbs h) : Bool := a.high == b.high && a.low == b.low

/-- The order, the high limb first (R126). -/
def limbLt {h : Nat} (a b : Limbs h) : Bool :=
  ltB a.high b.high || (a.high == b.high && ltB a.low b.low)

/-- The schoolbook widening multiply: four partial products, summed in four columns with explicit carries
(spec/42_wide_multiply.md R152). -/
def limbMulw {k : Nat} (a b : Limbs k) : BitVec ((k + k) + (k + k)) :=
  let ll := Limbs.ofValue (mulwN a.low b.low)
  let lh := Limbs.ofValue (mulwN a.low b.high)
  let hl := Limbs.ofValue (mulwN a.high b.low)
  let hh := Limbs.ofValue (mulwN a.high b.high)
  let t := ll.high.toNat + lh.low.toNat + hl.low.toNat
  let u := lh.high.toNat + hl.high.toNat + hh.low.toNat + t / 2 ^ k
  let r3 := BitVec.ofNat k (hh.high.toNat + u / 2 ^ k)
  (r3 ++ BitVec.ofNat k u) ++ (BitVec.ofNat k t ++ ll.low)

/-- The schoolbook truncating multiply, which never forms the product of the high limbs (R153). -/
def limbMul {h : Nat} (a b : Limbs h) : Limbs h :=
  let ll := Limbs.ofValue (mulwN a.low b.low)
  let cross := addN (mulN a.high b.low) (mulN a.low b.high)
  { high := addN ll.high cross, low := ll.low }

end Sys2Proof.Machine
end

