-- ==== Sys2Proof/Machine/Script.lean ====
section
/-! DEFINITION. What a host writes and does: command lines with named results, and the pseudo-instructions, each of
which expands to commands and to nothing else (spec/30_encoding.md R79, R80). The block keeps none of the names
(R79); nothing here changes what a command does. Log entry 13 says what of R79 this leaves out. -/

namespace Sys2Proof.Machine

/-- An operand of a command line (R79). A name is a number here. -/
inductive LineOperand where
  /-- An unsigned literal. -/
  | literal (v : Port)
  /-- `name`: RES0 of the line that bound it. -/
  | res0 (name : Nat)
  /-- `name.1`: RES1 of the line that bound it. -/
  | res1 (name : Nat)
  deriving DecidableEq, Repr

/-- One line, `[name =] MNEMONIC [operandA [, operandB]] [, #imm]`; the immediate is in the instruction (R79). -/
structure CommandLine where
  name : Option Nat
  instr : Instr
  operandA : Option LineOperand
  operandB : Option LineOperand
  deriving DecidableEq, Repr

/-- The host's variables: each name with the two results it stands for, the latest first. -/
abbrev Bindings := List (Nat × Port × Port)

/-- The results a name stands for. -/
def resultsOf (names : Bindings) (name : Nat) : Option (Port × Port) :=
  (names.find? fun b => b.1 == name).map Prod.snd

/-- The value of an operand; none for a name that no line has bound. -/
def LineOperand.value (names : Bindings) : LineOperand → Option Port
  | .literal v => some v
  | .res0 name => (resultsOf names name).map Prod.fst
  | .res1 name => (resultsOf names name).map Prod.snd

/-- What the host puts on a port: the operand's value, or zero on a port that the command ignores. -/
def portValue (names : Bindings) (operand : Option LineOperand) : Option Port :=
  match operand with
  | none => some 0
  | some o => o.value names

/-- The request of a line (R79); none if an operand has no value. -/
def CommandLine.request (names : Bindings) (line : CommandLine) : Option Request :=
  match portValue names line.operandA, portValue names line.operandB with
  | some a, some b => some { cmd := encode line.instr, opa := a, opb := b }
  | _, _ => none

/-- The names after a line's response: a line that faults binds no name (R79). -/
def CommandLine.bind (names : Bindings) (line : CommandLine) (resp : Option Response) : Bindings :=
  match line.name, resp with
  | some name, some (.ok res0 res1) => (name, res0, res1) :: names
  | _, _ => names

/-- The host presents one line as the next request, and the block serves it; none if the host has no value for an
operand or the machine stops. -/
def runLine (line : CommandLine) (at_ : State × Bindings) : Option (State × Bindings) :=
  match line.request at_.2 with
  | none => none
  | some r =>
    match step { at_.1 with inputs := .command r :: at_.1.inputs } with
    | .next t => some (t, line.bind at_.2 t.responses.getLast?)
    | _ => none

/-- Lines one after the other, each after the response of the one before. -/
def runLines : List CommandLine → State × Bindings → Option (State × Bindings)
  | [], at_ => some at_
  | line :: lines, at_ =>
    match runLine line at_ with
    | none => none
    | some next => runLines lines next

/-- The width a pseudo-instruction works at: field `w` of its commands (R71). -/
inductive WidthSelect where
  | narrow
  | wide
  deriving DecidableEq, Repr

/-- The pseudo-instructions of R80: GTN, GEN, LEN, NEN, STEPE, REWINDE, HI64, LO64. -/
inductive Pseudo where
  | gt (w : WidthSelect) (a b : LineOperand)
  | ge (w : WidthSelect) (a b : LineOperand)
  | le (w : WidthSelect) (a b : LineOperand)
  | ne (w : WidthSelect) (a b : LineOperand)
  | stepEngine (w : WidthSelect)
  | rewind (w : WidthSelect) (k : Nat)
  | hi64 (a : LineOperand)
  | lo64 (a : LineOperand)
  deriving DecidableEq, Repr

/-- The instruction for one of two widths. -/
def WidthSelect.pick (w : WidthSelect) (narrow wide : Instr) : Instr :=
  match w with
  | .narrow => narrow
  | .wide => wide

/-- A line that binds `name`. -/
def line2 (name : Nat) (i : Instr) (a b : LineOperand) : CommandLine :=
  { name := some name, instr := i, operandA := some a, operandB := some b }

/-- A line with one operand that binds `name`. -/
def line1 (name : Nat) (i : Instr) (a : LineOperand) : CommandLine :=
  { name := some name, instr := i, operandA := some a, operandB := none }

/-- The advance by `delta` of the engine that `w` selects. -/
def advanceLine (w : WidthSelect) (delta : Port) : CommandLine :=
  { name := none, instr := w.pick .advance32 .advance64, operandA := some (.literal delta), operandB := none }

/-- The expansion of a pseudo-instruction whose result is to be bound to `name` (R80). -/
def Pseudo.expand (name : Nat) : Pseudo → List CommandLine
  | .gt w a b => [line2 name (w.pick .lt64 .lt128) b a]
  | .ge w a b =>
    [line2 name (w.pick .lt64 .lt128) a b, line2 name (w.pick .xor64 .xor128) (.res0 name) (.literal 1)]
  | .le w a b =>
    [line2 name (w.pick .lt64 .lt128) b a, line2 name (w.pick .xor64 .xor128) (.res0 name) (.literal 1)]
  | .ne w a b =>
    [line2 name (w.pick .eq64 .eq128) a b, line2 name (w.pick .xor64 .xor128) (.res0 name) (.literal 1)]
  | .stepEngine w => [advanceLine w 1]
  | .rewind .narrow k => [advanceLine .narrow (onPort (negN (BitVec.ofNat 64 k)))]
  | .rewind .wide k => [advanceLine .wide (negN (BitVec.ofNat 128 k))]
  | .hi64 a => [line1 name (.shr128 64) a, line1 name (.trunc128 64) (.res0 name)]
  | .lo64 a => [line1 name (.trunc128 64) a]

end Sys2Proof.Machine
end

