-- ==== Sys2Proof/Safety.lean ====
section
/-! DEFINITION. What the statements mean by a good state and a good run. -/

namespace Sys2Proof

/-- The increment invariant: the increment of every seeded engine is odd (spec/10_state.md R25). -/
def Machine.CoreState.incOdd (c : Machine.CoreState) : Bool :=
  (match c.e32 with
    | none => true
    | some e => e.inc.getLsbD 0) &&
  (match c.e64 with
    | none => true
    | some e => e.inc.getLsbD 0)

/-- The increment invariant of a machine state. -/
abbrev Machine.State.IncOdd (s : Machine.State) : Prop := s.core.incOdd = true

/-- A step that the machine completes: it neither faults nor refuses. -/
def Machine.State.Steps (s : Machine.State) : Prop := ∃ t, Machine.step s = .next t

/-- `k` steps in a row that the machine completes, ending in `t`. -/
def Machine.State.RunsTo (s : Machine.State) (k : Nat) (t : Machine.State) : Prop :=
  Sys2Proof.core.run k s = .next t

/-- Whether an input is a request that is to be served. -/
def Machine.Input.isCommand : Machine.Input → Bool
  | .command _ => true
  | .abandoned _ => false
  | .reset => false

end Sys2Proof
end

