-- ==== Sys2Proof/Certificates/Slice0/Obligations.lean ====
section
/-! DEFINITION. The statements for the provers. Each docstring names the rules of spec/ the statement formalises.
Operand values are written as natural numbers, so that a statement says what the rule says and not how the model
computes it. Throughout, `s` is any state whose next input is the request `r`, with `rest` waiting behind it. -/

namespace Sys2Proof.Certificates

open Sys2Proof.Machine

/-- `s` after its next request has been served: the engines as given, `rest` waiting, one more response. The two lists
are the model's record of the channels of R40 (log entries 2 and 3). -/
def served (s : State) (rest : List Input) (core : CoreState) (resp : Response) : State :=
  { core := core, inputs := rest, responses := s.responses ++ [resp] }

/-- A state with the given engines, one waiting request and no response yet. -/
def fresh (core : CoreState) (r : Request) : State := { core := core, inputs := [.command r], responses := [] }

/-- The commands that write Engine-32 (spec/10_state.md R23). -/
def engine32Commands : List Instr := [.seed32, .next32, .bnext32, .advance32]

/-- The commands that write Engine-64 (R23). -/
def engine64Commands : List Instr := [.seed64, .next64, .bnext64, .advance64]

/-- The integer a port carries for a command of the width `w` selects (R41). -/
def valueAt (w : WidthSelect) (v : Port) : Nat :=
  match w with
  | .narrow => v.toNat % 2 ^ 64
  | .wide => v.toNat

/-- How many low bits of OPA and of OPB a command uses (spec/20_memory.md R46). -/
def operandWidths : Instr → Nat × Nat
  | .add64 | .sub64 | .and64 | .or64 | .xor64 | .mul64 | .mulw64 | .divrem64 | .eq64 | .lt64 | .seed32 => (64, 64)
  | .add128 | .sub128 | .and128 | .or128 | .xor128 | .mul128 | .mulw128 | .divrem128 | .eq128 | .lt128
  | .seed64 => (128, 128)
  | .neg64 | .not64 | .shl64 _ | .shr64 _ | .trunc64 _ | .advance32 | .bnext64 => (64, 0)
  | .neg128 | .not128 | .shl128 _ | .shr128 _ | .trunc128 _ | .advance64 => (128, 0)
  | .bnext32 => (32, 0)
  | .next32 | .next64 => (0, 0)

/-- How many low bits of RES0 and of RES1 a command's result fills (R46); the bits above are zero. -/
def resultWidths : Instr → Nat × Nat
  | .add64 | .sub64 | .neg64 | .and64 | .or64 | .xor64 | .not64 | .shl64 _ | .shr64 _ | .mul64 => (64, 0)
  | .add128 | .sub128 | .neg128 | .and128 | .or128 | .xor128 | .not128 | .shl128 _ | .shr128 _ | .mul128 => (128, 0)
  | .eq64 | .eq128 | .lt64 | .lt128 => (1, 0)
  | .trunc64 k | .trunc128 k => (k.toNat, 0)
  | .mulw64 => (128, 0)
  | .mulw128 => (128, 128)
  | .divrem64 => (64, 64)
  | .divrem128 => (128, 128)
  | .seed32 | .seed64 | .advance32 | .advance64 => (0, 0)
  | .next32 | .bnext32 => (32, 0)
  | .next64 | .bnext64 => (64, 0)

end Sys2Proof.Certificates

open Sys2Proof Sys2Proof.Machine Sys2Proof.Certificates

/-! ## The adder/subtractor (spec/40_wide_addsub.md) -/

/-- R100, R106, R107: ADD64 and ADD128 answer the sum modulo 2^N and write no state. -/
def Obligations.AddAnswersSumModuloWidth : Prop :=
  decode 0x00000001#32 = .ok .add64 ∧ decode 0x00000101#32 = .ok .add128 ∧
  ∀ (s : State) (r : Request) (rest : List Input), s.inputs = .command r :: rest →
    exec .add64 s = .next (served s rest s.core
      (.ok (BitVec.ofNat 128 ((r.opa.toNat % 2 ^ 64 + r.opb.toNat % 2 ^ 64) % 2 ^ 64)) 0)) ∧
    exec .add128 s = .next (served s rest s.core
      (.ok (BitVec.ofNat 128 ((r.opa.toNat + r.opb.toNat) % 2 ^ 128)) 0))

/-- R103, R108, R109: SUB64 and SUB128 answer the difference modulo 2^N and write no state. -/
def Obligations.SubAnswersDifferenceModuloWidth : Prop :=
  decode 0x00000002#32 = .ok .sub64 ∧ decode 0x00000102#32 = .ok .sub128 ∧
  ∀ (s : State) (r : Request) (rest : List Input), s.inputs = .command r :: rest →
    exec .sub64 s = .next (served s rest s.core
      (.ok (BitVec.ofNat 128 ((2 ^ 64 + r.opa.toNat % 2 ^ 64 - r.opb.toNat % 2 ^ 64) % 2 ^ 64)) 0)) ∧
    exec .sub128 s = .next (served s rest s.core
      (.ok (BitVec.ofNat 128 ((2 ^ 128 + r.opa.toNat - r.opb.toNat) % 2 ^ 128)) 0))

/-- R102, R110, R111: NEG64 and NEG128 answer `(2^N - v) mod 2^N` and write no state. -/
def Obligations.NegAnswersTwosComplement : Prop :=
  decode 0x00000003#32 = .ok .neg64 ∧ decode 0x00000103#32 = .ok .neg128 ∧
  ∀ (s : State) (r : Request) (rest : List Input), s.inputs = .command r :: rest →
    exec .neg64 s = .next (served s rest s.core
      (.ok (BitVec.ofNat 128 ((2 ^ 64 - r.opa.toNat % 2 ^ 64) % 2 ^ 64)) 0)) ∧
    exec .neg128 s = .next (served s rest s.core
      (.ok (BitVec.ofNat 128 ((2 ^ 128 - r.opa.toNat) % 2 ^ 128)) 0))

/-! ## The bitwise, shift, compare and cast unit (spec/41_wide_bitwise_shift_compare.md) -/

/-- R120, R129 to R134: bit `i` of the result of AND, OR and XOR is the operation on bit `i` of the operands, for every
`i` below the width, and the bits of RES0 above the width are zero; no state is written. -/
def Obligations.BitwiseActsBitByBit : Prop :=
  decode 0x00000004#32 = .ok .and64 ∧ decode 0x00000104#32 = .ok .and128 ∧
  decode 0x00000005#32 = .ok .or64 ∧ decode 0x00000105#32 = .ok .or128 ∧
  decode 0x00000006#32 = .ok .xor64 ∧ decode 0x00000106#32 = .ok .xor128 ∧
  ∀ (s : State) (r : Request) (rest : List Input), s.inputs = .command r :: rest →
    (∃ x : Port, exec .and64 s = .next (served s rest s.core (.ok x 0)) ∧
      ∀ i, x.getLsbD i = (decide (i < 64) && (r.opa.getLsbD i && r.opb.getLsbD i))) ∧
    (∃ x : Port, exec .and128 s = .next (served s rest s.core (.ok x 0)) ∧
      ∀ i, x.getLsbD i = (r.opa.getLsbD i && r.opb.getLsbD i)) ∧
    (∃ x : Port, exec .or64 s = .next (served s rest s.core (.ok x 0)) ∧
      ∀ i, x.getLsbD i = (decide (i < 64) && (r.opa.getLsbD i || r.opb.getLsbD i))) ∧
    (∃ x : Port, exec .or128 s = .next (served s rest s.core (.ok x 0)) ∧
      ∀ i, x.getLsbD i = (r.opa.getLsbD i || r.opb.getLsbD i)) ∧
    (∃ x : Port, exec .xor64 s = .next (served s rest s.core (.ok x 0)) ∧
      ∀ i, x.getLsbD i = (decide (i < 64) && (r.opa.getLsbD i ^^ r.opb.getLsbD i))) ∧
    (∃ x : Port, exec .xor128 s = .next (served s rest s.core (.ok x 0)) ∧
      ∀ i, x.getLsbD i = (r.opa.getLsbD i ^^ r.opb.getLsbD i))

/-- R121, R139, R140: NOT64 and NOT128 answer `(2^N - 1) - a`, so that RES0[127:64] of NOT64 is zero. -/
def Obligations.NotComplementsAtItsWidth : Prop :=
  decode 0x00000007#32 = .ok .not64 ∧ decode 0x00000107#32 = .ok .not128 ∧
  ∀ (s : State) (r : Request) (rest : List Input), s.inputs = .command r :: rest →
    exec .not64 s = .next (served s rest s.core
      (.ok (BitVec.ofNat 128 (2 ^ 64 - 1 - r.opa.toNat % 2 ^ 64)) 0)) ∧
    exec .not128 s = .next (served s rest s.core (.ok (BitVec.ofNat 128 (2 ^ 128 - 1 - r.opa.toNat)) 0))

/-- R122, R141, R142: SHL64 and SHL128 answer `a * 2^n mod 2^N` below the width and 0 from the width on, for every
amount the command word can hold. -/
def Obligations.ShlMultipliesByPowerOfTwo : Prop :=
  ∀ n : Imm8,
    decode (BitVec.ofNat 32 (n.toNat * 0x10000 + 0x08)) = .ok (.shl64 n) ∧
    decode (BitVec.ofNat 32 (n.toNat * 0x10000 + 0x108)) = .ok (.shl128 n) ∧
    ∀ (s : State) (r : Request) (rest : List Input), s.inputs = .command r :: rest →
      exec (.shl64 n) s = .next (served s rest s.core (.ok (BitVec.ofNat 128
        (if n.toNat < 64 then r.opa.toNat % 2 ^ 64 * 2 ^ n.toNat % 2 ^ 64 else 0)) 0)) ∧
      exec (.shl128 n) s = .next (served s rest s.core (.ok (BitVec.ofNat 128
        (if n.toNat < 128 then r.opa.toNat * 2 ^ n.toNat % 2 ^ 128 else 0)) 0))

/-- R123, R143, R144: SHR64 and SHR128 answer `floor(a / 2^n)` below the width and 0 from the width on, for every
amount the command word can hold. -/
def Obligations.ShrDividesByPowerOfTwo : Prop :=
  ∀ n : Imm8,
    decode (BitVec.ofNat 32 (n.toNat * 0x10000 + 0x09)) = .ok (.shr64 n) ∧
    decode (BitVec.ofNat 32 (n.toNat * 0x10000 + 0x109)) = .ok (.shr128 n) ∧
    ∀ (s : State) (r : Request) (rest : List Input), s.inputs = .command r :: rest →
      exec (.shr64 n) s = .next (served s rest s.core (.ok (BitVec.ofNat 128
        (if n.toNat < 64 then r.opa.toNat % 2 ^ 64 / 2 ^ n.toNat else 0)) 0)) ∧
      exec (.shr128 n) s = .next (served s rest s.core (.ok (BitVec.ofNat 128
        (if n.toNat < 128 then r.opa.toNat / 2 ^ n.toNat else 0)) 0))

/-- R125, R126, R135 to R138: EQ and LT answer 1 or 0, by the unsigned integers on the operands' width, and leave no
flag and no other state behind. -/
def Obligations.CompareAnswersOneBit : Prop :=
  decode 0x0000000A#32 = .ok .eq64 ∧ decode 0x0000010A#32 = .ok .eq128 ∧
  decode 0x0000000B#32 = .ok .lt64 ∧ decode 0x0000010B#32 = .ok .lt128 ∧
  ∀ (s : State) (r : Request) (rest : List Input), s.inputs = .command r :: rest →
    exec .eq64 s = .next (served s rest s.core
      (.ok (if r.opa.toNat % 2 ^ 64 = r.opb.toNat % 2 ^ 64 then 1 else 0) 0)) ∧
    exec .eq128 s = .next (served s rest s.core (.ok (if r.opa.toNat = r.opb.toNat then 1 else 0) 0)) ∧
    exec .lt64 s = .next (served s rest s.core
      (.ok (if r.opa.toNat % 2 ^ 64 < r.opb.toNat % 2 ^ 64 then 1 else 0) 0)) ∧
    exec .lt128 s = .next (served s rest s.core (.ok (if r.opa.toNat < r.opb.toNat then 1 else 0) 0))

/-- R128, R145, R146: TRUNC64 and TRUNC128 answer `a mod 2^K` for the widths the command set provides; a command word
with any other width takes ILLEGAL_CMD and changes nothing. -/
def Obligations.TruncKeepsLowBits : Prop :=
  ∀ (k : Imm8) (s : State) (r : Request) (rest : List Input), s.inputs = .command r :: rest →
    (if k ∈ [8#8, 16#8, 32#8] then
      decode (BitVec.ofNat 32 (k.toNat * 0x10000 + 0x0C)) = .ok (.trunc64 k) ∧
      exec (.trunc64 k) s = .next (served s rest s.core
        (.ok (BitVec.ofNat 128 (r.opa.toNat % 2 ^ 64 % 2 ^ k.toNat)) 0))
    else r.cmd = BitVec.ofNat 32 (k.toNat * 0x10000 + 0x0C) →
      step s = .next (served s rest s.core (.fault .illegalCmd))) ∧
    (if k ∈ [8#8, 16#8, 32#8, 64#8] then
      decode (BitVec.ofNat 32 (k.toNat * 0x10000 + 0x10C)) = .ok (.trunc128 k) ∧
      exec (.trunc128 k) s = .next (served s rest s.core (.ok (BitVec.ofNat 128 (r.opa.toNat % 2 ^ k.toNat)) 0))
    else r.cmd = BitVec.ofNat 32 (k.toNat * 0x10000 + 0x10C) →
      step s = .next (served s rest s.core (.fault .illegalCmd)))

/-! ## The multiplier (spec/42_wide_multiply.md) -/

/-- R150, R156, R157: MUL64 and MUL128 answer the product modulo 2^N and write no state. -/
def Obligations.MulAnswersProductModuloWidth : Prop :=
  decode 0x00000010#32 = .ok .mul64 ∧ decode 0x00000110#32 = .ok .mul128 ∧
  ∀ (s : State) (r : Request) (rest : List Input), s.inputs = .command r :: rest →
    exec .mul64 s = .next (served s rest s.core
      (.ok (BitVec.ofNat 128 ((r.opa.toNat % 2 ^ 64) * (r.opb.toNat % 2 ^ 64) % 2 ^ 64)) 0)) ∧
    exec .mul128 s = .next (served s rest s.core
      (.ok (BitVec.ofNat 128 (r.opa.toNat * r.opb.toNat % 2 ^ 128)) 0))

/-- R151, R158, R159: MULW64 and MULW128 answer the exact product: MULW64 all of it on RES0, MULW128 its low half on
RES0 and its high half on RES1. The product is given by the equation between the integers, so nothing of it is lost. -/
def Obligations.MulwAnswersExactProduct : Prop :=
  decode 0x00000011#32 = .ok .mulw64 ∧ decode 0x00000111#32 = .ok .mulw128 ∧
  ∀ (s : State) (r : Request) (rest : List Input), s.inputs = .command r :: rest →
    (∃ p : Port, exec .mulw64 s = .next (served s rest s.core (.ok p 0)) ∧
      p.toNat = (r.opa.toNat % 2 ^ 64) * (r.opb.toNat % 2 ^ 64)) ∧
    ∃ lo hi : Port, exec .mulw128 s = .next (served s rest s.core (.ok lo hi)) ∧
      lo.toNat + hi.toNat * 2 ^ 128 = r.opa.toNat * r.opb.toNat

/-! ## The divider (spec/43_wide_divide.md) -/

/-- R170, R171, R178, R179: DIVREM64 and DIVREM128 answer the quotient and the remainder, given by `a = q * b + r` and
`r < b` over the integers, or take DIV_ZERO when the divisor at the operation's width is 0; no state is written. -/
def Obligations.DivremAnswersQuotientAndRemainder : Prop :=
  decode 0x00000018#32 = .ok .divrem64 ∧ decode 0x00000118#32 = .ok .divrem128 ∧
  ∀ (s : State) (r : Request) (rest : List Input), s.inputs = .command r :: rest →
    (if r.opb.toNat % 2 ^ 64 = 0 then
      exec .divrem64 s = .next (served s rest s.core (.fault .divZero))
    else ∃ q m : Port, exec .divrem64 s = .next (served s rest s.core (.ok q m)) ∧
      r.opa.toNat % 2 ^ 64 = q.toNat * (r.opb.toNat % 2 ^ 64) + m.toNat ∧ m.toNat < r.opb.toNat % 2 ^ 64 ∧
      q.toNat < 2 ^ 64) ∧
    (if r.opb.toNat = 0 then
      exec .divrem128 s = .next (served s rest s.core (.fault .divZero))
    else ∃ q m : Port, exec .divrem128 s = .next (served s rest s.core (.ok q m)) ∧
      r.opa.toNat = q.toNat * r.opb.toNat + m.toNat ∧ m.toNat < r.opb.toNat)

/-- R172 to R176: the reference algorithm with its fast paths, its half-width path and its bisection in at most N
passes gives, at both widths, the pair of the contract R170 and none exactly for a zero divisor. -/
def Obligations.BisectionMeetsDivisionContract : Prop :=
  (∀ a b : BitVec 64, bisectDivremN a b = divremN a b) ∧
  ∀ a b : BitVec 128, bisectDivremN a b = divremN a b

/-! ## The limb-level backend (spec/00_scope.md R9) -/

/-- R101, R102, R103: the limb adder, negation and subtraction give the values of the integer definitions at 64 and at
128 bits. -/
def Obligations.LimbAdderIsExact : Prop :=
  (∀ a b : Limbs 32, (limbAdd a b).value = addN a.value b.value ∧ (limbNeg a).value = negN a.value ∧
    (limbSub a b).value = subN a.value b.value) ∧
  ∀ a b : Limbs 64, (limbAdd a b).value = addN a.value b.value ∧ (limbNeg a).value = negN a.value ∧
    (limbSub a b).value = subN a.value b.value

/-- R124: the case-by-case limb shifts give the values of R122 and R123 for every amount, at 64 and at 128 bits. -/
def Obligations.LimbShiftsAreExact : Prop :=
  (∀ (a : Limbs 32) (n : Nat), (limbShl a n).value = shlN a.value n ∧ (limbShr a n).value = shrN a.value n) ∧
  ∀ (a : Limbs 64) (n : Nat), (limbShl a n).value = shlN a.value n ∧ (limbShr a n).value = shrN a.value n

/-- R120, R121, R125, R126: the limb-wise bitwise operations, equality and high-limb-first order are those of the whole
values, at 64 and at 128 bits. -/
def Obligations.LimbLogicAndOrderAreExact : Prop :=
  (∀ a b : Limbs 32, (limbAnd a b).value = andN a.value b.value ∧ (limbOr a b).value = orN a.value b.value ∧
    (limbXor a b).value = xorN a.value b.value ∧ (limbNot a).value = notN a.value ∧
    limbEq a b = decide (a.value = b.value) ∧ limbLt a b = ltB a.value b.value) ∧
  ∀ a b : Limbs 64, (limbAnd a b).value = andN a.value b.value ∧ (limbOr a b).value = orN a.value b.value ∧
    (limbXor a b).value = xorN a.value b.value ∧ (limbNot a).value = notN a.value ∧
    limbEq a b = decide (a.value = b.value) ∧ limbLt a b = ltB a.value b.value

/-- R152, R153: the schoolbook widening and truncating multiplies give the values of R151 and R150, at 64 and at 128
bits. -/
def Obligations.SchoolbookMultiplyIsExact : Prop :=
  (∀ a b : Limbs 32, limbMulw a b = mulwN a.value b.value ∧ (limbMul a b).value = mulN a.value b.value) ∧
  ∀ a b : Limbs 64, limbMulw a b = mulwN a.value b.value ∧ (limbMul a b).value = mulN a.value b.value

/-! ## The engines (spec/44_engine32.md, spec/45_engine64.md) -/

/-- R203, R210: SEED32 writes all of Engine-32, whatever it held, from the closed form of R203, and answers no
result; Engine-64 is untouched. -/
def Obligations.Seed32OverwritesEngine : Prop :=
  decode 0x00000020#32 = .ok .seed32 ∧
  ∀ (s : State) (r : Request) (rest : List Input) (inc : Nat), s.inputs = .command r :: rest →
    inc = (2 * (r.opb.toNat % 2 ^ 64) + 1) % 2 ^ 64 →
    exec .seed32 s = .next (served s rest
      { e32 := some
          { state := BitVec.ofNat 64 ((inc + r.opa.toNat % 2 ^ 64) * 6364136223846793005 + inc)
            inc := BitVec.ofNat 64 inc }
        e64 := s.core.e64 } (.ok 0 0))

/-- R233, R240: SEED64 writes all of Engine-64, whatever it held, and answers no result; Engine-32 is untouched. -/
def Obligations.Seed64OverwritesEngine : Prop :=
  decode 0x00000120#32 = .ok .seed64 ∧
  ∀ (s : State) (r : Request) (rest : List Input) (inc : Nat), s.inputs = .command r :: rest →
    inc = (2 * r.opb.toNat + 1) % 2 ^ 128 →
    exec .seed64 s = .next (served s rest
      { e32 := s.core.e32
        e64 := some
          { state := BitVec.ofNat 128 ((inc + r.opa.toNat) * 47026247687942121848144207491837523525 + inc)
            inc := BitVec.ofNat 128 inc } } (.ok 0 0))

/-- R202, R205, R211: NEXT32 answers the XSH-RR output of the state BEFORE the step, rotated right by its top five
bits, and moves the state by one step; an unseeded engine takes NOT_SEEDED and nothing changes. -/
def Obligations.Next32OutputsPreStepState : Prop :=
  decode 0x00000021#32 = .ok .next32 ∧
  ∀ (s : State) (r : Request) (rest : List Input), s.inputs = .command r :: rest →
    (s.core.e32 = none → exec .next32 s = .next (served s rest s.core (.fault .notSeeded))) ∧
    ∀ p inc : BitVec 64, s.core.e32 = some { state := p, inc := inc } →
      exec .next32 s = .next (served s rest
        { e32 := some { state := BitVec.ofNat 64 (p.toNat * 6364136223846793005 + inc.toNat), inc := inc }
          e64 := s.core.e64 }
        (.ok (BitVec.setWidth 128 (BitVec.rotateRight
          (BitVec.ofNat 32 ((p.toNat / 2 ^ 18 ^^^ p.toNat) / 2 ^ 27)) (p.toNat / 2 ^ 59))) 0))

/-- R232, R235, R241: NEXT64 moves the state by one step and answers the XSL-RR output of the state AFTER the step, its
limbs xored and rotated right by its top six bits; an unseeded engine takes NOT_SEEDED and nothing changes. -/
def Obligations.Next64OutputsPostStepState : Prop :=
  decode 0x00000121#32 = .ok .next64 ∧
  ∀ (s : State) (r : Request) (rest : List Input), s.inputs = .command r :: rest →
    (s.core.e64 = none → exec .next64 s = .next (served s rest s.core (.fault .notSeeded))) ∧
    ∀ p q inc : BitVec 128, s.core.e64 = some { state := p, inc := inc } →
      q = BitVec.ofNat 128 (p.toNat * 47026247687942121848144207491837523525 + inc.toNat) →
      exec .next64 s = .next (served s rest
        { e32 := s.core.e32, e64 := some { state := q, inc := inc } }
        (.ok (BitVec.setWidth 128 (BitVec.rotateRight
          (BitVec.ofNat 64 (q.toNat / 2 ^ 64 ^^^ q.toNat % 2 ^ 64)) (q.toNat / 2 ^ 122))) 0))

/-- R206, R207, R208, R212: BNEXT32 on an unseeded engine takes NOT_SEEDED; with a zero bound it takes DIV_ZERO before
any draw; otherwise, if the first `k` draws are below `2^32 mod bound` and the next is not, it answers that draw modulo
the bound and has moved the state by `k + 1` steps, its increment unchanged, however large `k` is. -/
def Obligations.Bnext32AnswersFirstAcceptedDraw : Prop :=
  decode 0x00000022#32 = .ok .bnext32 ∧
  ∀ (s : State) (r : Request) (rest : List Input), s.inputs = .command r :: rest →
    (s.core.e32 = none → exec .bnext32 s = .next (served s rest s.core (.fault .notSeeded))) ∧
    ∀ (p inc : BitVec 64) (bound : Nat), s.core.e32 = some { state := p, inc := inc } →
      bound = r.opa.toNat % 2 ^ 32 →
      if bound = 0 then exec .bnext32 s = .next (served s rest s.core (.fault .divZero))
      else ∀ k : Nat,
        (∀ j, j < k → (output32 ((fun x => step32 x inc)^[j] p)).toNat < 2 ^ 32 % bound) →
        2 ^ 32 % bound ≤ (output32 ((fun x => step32 x inc)^[k] p)).toNat →
        exec .bnext32 s = .next (served s rest
          { e32 := some { state := (fun x => step32 x inc)^[k + 1] p, inc := inc }, e64 := s.core.e64 }
          (.ok (BitVec.ofNat 128 ((output32 ((fun x => step32 x inc)^[k] p)).toNat % bound)) 0))

/-- R236, R237, R238, R242: the same for BNEXT64, whose draw `j` is the output of the state after `j + 1` steps. -/
def Obligations.Bnext64AnswersFirstAcceptedDraw : Prop :=
  decode 0x00000122#32 = .ok .bnext64 ∧
  ∀ (s : State) (r : Request) (rest : List Input), s.inputs = .command r :: rest →
    (s.core.e64 = none → exec .bnext64 s = .next (served s rest s.core (.fault .notSeeded))) ∧
    ∀ (p inc : BitVec 128) (bound : Nat), s.core.e64 = some { state := p, inc := inc } →
      bound = r.opa.toNat % 2 ^ 64 →
      if bound = 0 then exec .bnext64 s = .next (served s rest s.core (.fault .divZero))
      else ∀ k : Nat,
        (∀ j, j < k → (output64 ((fun x => step64 x inc)^[j + 1] p)).toNat < 2 ^ 64 % bound) →
        2 ^ 64 % bound ≤ (output64 ((fun x => step64 x inc)^[k + 1] p)).toNat →
        exec .bnext64 s = .next (served s rest
          { e32 := s.core.e32, e64 := some { state := (fun x => step64 x inc)^[k + 1] p, inc := inc } }
          (.ok (BitVec.ofNat 128 ((output64 ((fun x => step64 x inc)^[k + 1] p)).toNat % bound)) 0))

/-- R25, R214: BNEXT32 on a seeded engine with an odd increment completes for every non-zero bound, with a value below
the bound, and leaves the increment and Engine-64 as they were. -/
def Obligations.Bnext32AlwaysCompletes : Prop :=
  ∀ (s : State) (r : Request) (rest : List Input) (p inc : BitVec 64), s.inputs = .command r :: rest →
    s.core.e32 = some { state := p, inc := inc } → inc.getLsbD 0 = true → r.opa.toNat % 2 ^ 32 ≠ 0 →
    ∃ (p' : BitVec 64) (v : Port), v.toNat < r.opa.toNat % 2 ^ 32 ∧
      exec .bnext32 s = .next (served s rest
        { e32 := some { state := p', inc := inc }, e64 := s.core.e64 } (.ok v 0))

/-- R25, R244: the same for BNEXT64. -/
def Obligations.Bnext64AlwaysCompletes : Prop :=
  ∀ (s : State) (r : Request) (rest : List Input) (p inc : BitVec 128), s.inputs = .command r :: rest →
    s.core.e64 = some { state := p, inc := inc } → inc.getLsbD 0 = true → r.opa.toNat % 2 ^ 64 ≠ 0 →
    ∃ (p' : BitVec 128) (v : Port), v.toNat < r.opa.toNat % 2 ^ 64 ∧
      exec .bnext64 s = .next (served s rest
        { e32 := s.core.e32, e64 := some { state := p', inc := inc } } (.ok v 0))

/-- The model's bound on the draws (log entry 6) stops no draw that could succeed: BNEXT32 and BNEXT64 stop on a
seeded engine with a non-zero bound exactly when every draw the engine could ever make is below the threshold (R207,
R237, D26). -/
def Obligations.BoundedDrawStopsOnlyIfEndless : Prop :=
  ∀ (s : State) (r : Request) (rest : List Input), s.inputs = .command r :: rest →
    (∀ p inc : BitVec 64, s.core.e32 = some { state := p, inc := inc } → r.opa.toNat % 2 ^ 32 ≠ 0 →
      (exec .bnext32 s = .fault .drawNeverAccepted ↔
        ∀ j, (output32 ((fun x => step32 x inc)^[j] p)).toNat < 2 ^ 32 % (r.opa.toNat % 2 ^ 32))) ∧
    ∀ p inc : BitVec 128, s.core.e64 = some { state := p, inc := inc } → r.opa.toNat % 2 ^ 64 ≠ 0 →
      (exec .bnext64 s = .fault .drawNeverAccepted ↔
        ∀ j, (output64 ((fun x => step64 x inc)^[j + 1] p)).toNat < 2 ^ 64 % (r.opa.toNat % 2 ^ 64))

/-- R206, R209, R236: the threshold is `2^W mod bound`, is below the bound and below `2^(W-1)`, and leaves a number of
accepted draws that is a multiple of the bound. -/
def Obligations.ThresholdIsPowerModBound : Prop :=
  (∀ b : BitVec 32, b ≠ 0 → (threshold32 b).toNat = 2 ^ 32 % b.toNat ∧ threshold32 b < b ∧
    (threshold32 b).toNat < 2 ^ 31 ∧ b.toNat ∣ 2 ^ 32 - (threshold32 b).toNat) ∧
  ∀ b : BitVec 64, b ≠ 0 → ∃ t, threshold64 b = some t ∧ t.toNat = 2 ^ 64 % b.toNat ∧ t < b ∧
    t.toNat < 2 ^ 63 ∧ b.toNat ∣ 2 ^ 64 - t.toNat

/-- R209: among all draws at or above the threshold, each value below the bound is answered by equally many. -/
def Obligations.AcceptedDrawsAreUniform : Prop :=
  (∀ (b : BitVec 32) (v : Nat), v < b.toNat →
    Nat.count (fun x => (threshold32 b).toNat ≤ x ∧ x % b.toNat = v) (2 ^ 32) =
      (2 ^ 32 - (threshold32 b).toNat) / b.toNat) ∧
  ∀ (b t : BitVec 64) (v : Nat), threshold64 b = some t → v < b.toNat →
    Nat.count (fun x => t.toNat ≤ x ∧ x % b.toNat = v) (2 ^ 64) = (2 ^ 64 - t.toNat) / b.toNat

/-- R204, R234: bit `i` of a value rotated right by `r` is bit `(i + r) mod W` of the value. -/
def Obligations.RotateRightMovesBits : Prop :=
  (∀ (v : BitVec 32) (r i : Nat), r < 32 → i < 32 → (rotr32 v r).getLsbD i = v.getLsbD ((i + r) % 32)) ∧
  ∀ (v : BitVec 64) (r i : Nat), r < 64 → i < 64 → (rotr64 v r).getLsbD i = v.getLsbD ((i + r) % 64)

/-! ## The jump-ahead unit (spec/46_advance.md) -/

/-- R260, R262, first equation: for every state, delta, multiplier and increment of either width, the jump is the step
applied `delta` times. -/
def Obligations.AdvanceEqualsRepeatedSteps : Prop :=
  (∀ x delta M C : BitVec 64, advanceN x delta M C = (stepN M C)^[delta.toNat] x) ∧
  ∀ x delta M C : BitVec 128, advanceN x delta M C = (stepN M C)^[delta.toNat] x

/-- R213, R243, R262: ADVANCE32 and ADVANCE64 move the state by `delta` steps and answer no result, the increment
unchanged; an unseeded engine takes NOT_SEEDED and nothing changes. -/
def Obligations.AdvanceMovesEngineByDelta : Prop :=
  decode 0x00000023#32 = .ok .advance32 ∧ decode 0x00000123#32 = .ok .advance64 ∧
  ∀ (s : State) (r : Request) (rest : List Input), s.inputs = .command r :: rest →
    (s.core.e32 = none → exec .advance32 s = .next (served s rest s.core (.fault .notSeeded))) ∧
    (∀ p inc : BitVec 64, s.core.e32 = some { state := p, inc := inc } →
      exec .advance32 s = .next (served s rest
        { e32 := some { state := (fun x => step32 x inc)^[r.opa.toNat % 2 ^ 64] p, inc := inc }
          e64 := s.core.e64 } (.ok 0 0))) ∧
    (s.core.e64 = none → exec .advance64 s = .next (served s rest s.core (.fault .notSeeded))) ∧
    ∀ p inc : BitVec 128, s.core.e64 = some { state := p, inc := inc } →
      exec .advance64 s = .next (served s rest
        { e32 := s.core.e32
          e64 := some { state := (fun x => step64 x inc)^[r.opa.toNat] p, inc := inc } } (.ok 0 0))

/-- R262, at the level of commands: ADVANCE by `delta` and then one NEXT leave the engine, and answer the output, that
`delta + 1` NEXT commands leave and answer last, for both engines. -/
def Obligations.AdvanceThenNextEqualsNexts : Prop :=
  (∀ (core : CoreState) (delta : BitVec 64), core.e32 ≠ none → ∃ t u : State,
    State.RunsTo { core := core, responses := [], inputs :=
      [.command { cmd := 0x23, opa := delta.setWidth 128, opb := 0 }, .command { cmd := 0x21, opa := 0, opb := 0 }] } 2 t ∧
    State.RunsTo { core := core, responses := [], inputs :=
      List.replicate (delta.toNat + 1) (.command { cmd := 0x21, opa := 0, opb := 0 }) } (delta.toNat + 1) u ∧
    t.core = u.core ∧ t.responses.getLast? = u.responses.getLast?) ∧
  ∀ (core : CoreState) (delta : BitVec 128), core.e64 ≠ none → ∃ t u : State,
    State.RunsTo { core := core, responses := [], inputs :=
      [.command { cmd := 0x123, opa := delta, opb := 0 }, .command { cmd := 0x121, opa := 0, opb := 0 }] } 2 t ∧
    State.RunsTo { core := core, responses := [], inputs :=
      List.replicate (delta.toNat + 1) (.command { cmd := 0x121, opa := 0, opb := 0 }) } (delta.toNat + 1) u ∧
    t.core = u.core ∧ t.responses.getLast? = u.responses.getLast?

/-- R25: with an odd increment the recurrence of either engine has full period: every state is reached from every state
within 2^S steps, and no state comes back sooner than after 2^S steps, when it does. -/
def Obligations.OddIncrementGivesFullPeriod : Prop :=
  (∀ C x : BitVec 64, C.getLsbD 0 = true →
    (∀ y, ∃ k, k < 2 ^ 64 ∧ (stepN multiplier64 C)^[k] x = y) ∧
    (∀ k, 0 < k → k < 2 ^ 64 → (stepN multiplier64 C)^[k] x ≠ x) ∧ (stepN multiplier64 C)^[2 ^ 64] x = x) ∧
  ∀ C x : BitVec 128, C.getLsbD 0 = true →
    (∀ y, ∃ k, k < 2 ^ 128 ∧ (stepN multiplier128 C)^[k] x = y) ∧
    (∀ k, 0 < k → k < 2 ^ 128 → (stepN multiplier128 C)^[k] x ≠ x) ∧ (stepN multiplier128 C)^[2 ^ 128] x = x

/-- R263: an advance by 0 is the identity and one by 1 is one step; an advance by `(2^N - k) mod 2^N` undoes one by `k`
on an engine with an odd increment. -/
def Obligations.AdvanceRewinds : Prop :=
  (∀ x C k : BitVec 64, advanceN x 0 multiplier64 C = x ∧ advanceN x 1 multiplier64 C = step32 x C ∧
    (C.getLsbD 0 = true →
      advanceN (advanceN x k multiplier64 C) (BitVec.ofNat 64 (2 ^ 64 - k.toNat)) multiplier64 C = x)) ∧
  ∀ x C k : BitVec 128, advanceN x 0 multiplier128 C = x ∧ advanceN x 1 multiplier128 C = step64 x C ∧
    (C.getLsbD 0 = true →
      advanceN (advanceN x k multiplier128 C) (BitVec.ofNat 128 (2 ^ 128 - k.toNat)) multiplier128 C = x)

/-! ## Decoding (spec/30_encoding.md) -/

/-- R71, R74, R81: decoding the encoding of any instruction of the command set gives it back, with every immediate. -/
def Obligations.DecodeOfEncodeIsIdentity : Prop :=
  ∀ i : Instr, i.WellFormed → decode (encode i) = .ok i

/-- R81: a word that decodes is the encoding of the instruction it decodes to, which is one of the command set; so two
different legal words never decode to the same instruction with the same immediate. -/
def Obligations.EncodeOfDecodeIsIdentity : Prop :=
  ∀ (cmd : CommandWord) (i : Instr), decode cmd = .ok i → i.WellFormed ∧ encode i = cmd

/-- R76, R303: a command word is illegal exactly when one of the five conditions holds, and an illegal word takes
ILLEGAL_CMD and changes no state, whatever the operands and the engines are. -/
def Obligations.IllegalWordsAreExactlyR76 : Prop :=
  ∀ (cmd : CommandWord) (op w z0 imm8 z1 : Nat),
    op = cmd.toNat % 2 ^ 8 → w = cmd.toNat / 2 ^ 8 % 2 → z0 = cmd.toNat / 2 ^ 9 % 2 ^ 7 →
    imm8 = cmd.toNat / 2 ^ 16 % 2 ^ 8 → z1 = cmd.toNat / 2 ^ 24 →
    ((∃ e, decode cmd = .error e) ↔
      (z0 ≠ 0 ∨ z1 ≠ 0) ∨
      (op = 0 ∨ (0x0D ≤ op ∧ op ≤ 0x0F) ∨ (0x12 ≤ op ∧ op ≤ 0x17) ∨ (0x19 ≤ op ∧ op ≤ 0x1F) ∨ 0x24 ≤ op) ∨
      (op ≠ 0x08 ∧ op ≠ 0x09 ∧ op ≠ 0x0C ∧ imm8 ≠ 0) ∨
      (op = 0x0C ∧ w = 0 ∧ imm8 ∉ [8, 16, 32]) ∨
      (op = 0x0C ∧ w = 1 ∧ imm8 ∉ [8, 16, 32, 64])) ∧
    ∀ (s : State) (r : Request) (rest : List Input), s.inputs = .command r :: rest → r.cmd = cmd →
      (∃ e, decode cmd = .error e) → step s = .next (served s rest s.core (.fault .illegalCmd))

/-- R74, R71: a few command words, written out from the opcode map, decode to their instructions. -/
def Obligations.SampleWordsDecode : Prop :=
  decode 0x00000001#32 = .ok .add64 ∧ decode 0x00000118#32 = .ok .divrem128 ∧
  decode 0x00200008#32 = .ok (.shl64 32) ∧ decode 0x00FF0109#32 = .ok (.shr128 255) ∧
  decode 0x0040010C#32 = .ok (.trunc128 64) ∧ decode 0x00000111#32 = .ok .mulw128 ∧
  decode 0x00000021#32 = .ok .next32 ∧ decode 0x00000123#32 = .ok .advance64 ∧
  decode 0x00000000#32 = .error .unassignedOpcode ∧ decode 0xFFFFFFFF#32 = .error .reservedBits

/-- R43, R81: a step at a request whose word decodes to `i` is `exec i` at that state, and `i` is well-formed; the step
adds nothing around it. -/
def Obligations.StepRunsDecodedInstruction : Prop :=
  ∀ (s : State) (r : Request) (rest : List Input) (i : Instr), s.inputs = .command r :: rest →
    decode r.cmd = .ok i → i.WellFormed ∧ step s = exec i s

/-! ## Reset, faults and the machine as a whole -/

/-- R27, R30, R32: after reset both engines are unseeded and hold no value. That no input waits and no response stands
right after reset is the model's choice (log entry 8). -/
def Obligations.ResetLeavesEnginesUnseeded : Prop :=
  State.reset.core = { e32 := none, e64 := none } ∧ State.reset.core.seeded32 = false ∧
  State.reset.core.seeded64 = false ∧ State.reset.inputs = [] ∧ State.reset.responses = []

/-- R340: RESET leaves both engines unseeded and produces no response, and a request it abandons produces none either;
what waits goes on waiting. That RESET is one input and that a block without an input stays as it is are the model's
choices (log entries 4 and 5). -/
def Obligations.ResetInputUnseedsBothEngines : Prop :=
  ∀ (s : State) (r : Request) (rest : List Input),
    (s.inputs = .reset :: rest ∨ s.inputs = .abandoned r :: rest →
      step s = .next { core := { e32 := none, e64 := none }, inputs := rest, responses := s.responses }) ∧
    (s.inputs = [] → step s = .next s)

/-- R301: the status of a response is 0 for OK and 1, 2, 3 for the three faults, and never 4 to 15. -/
def Obligations.StatusCodesAreR301 : Prop :=
  (∀ a b, (Response.ok a b).status = 0) ∧ (Response.fault .divZero).status = 1 ∧
  (Response.fault .illegalCmd).status = 2 ∧ (Response.fault .notSeeded).status = 3 ∧
  ∀ resp : Response, resp.status.toNat < 4

/-- R308: where several faults apply, ILLEGAL_CMD comes before NOT_SEEDED and NOT_SEEDED before DIV_ZERO: an illegal
word takes ILLEGAL_CMD whatever else holds; a command on an unseeded engine takes NOT_SEEDED whatever its operands are;
a zero bound takes DIV_ZERO on a seeded engine, a zero divisor always. -/
def Obligations.FaultPriorityIsR308 : Prop :=
  ∀ (s : State) (r : Request) (rest : List Input), s.inputs = .command r :: rest →
    (∀ e, decode r.cmd = .error e → step s = .next (served s rest s.core (.fault .illegalCmd))) ∧
    (∀ i ∈ [Instr.next32, .bnext32, .advance32], decode r.cmd = .ok i → s.core.e32 = none →
      step s = .next (served s rest s.core (.fault .notSeeded))) ∧
    (∀ i ∈ [Instr.next64, .bnext64, .advance64], decode r.cmd = .ok i → s.core.e64 = none →
      step s = .next (served s rest s.core (.fault .notSeeded))) ∧
    (decode r.cmd = .ok .bnext32 → s.core.e32 ≠ none → r.opa.toNat % 2 ^ 32 = 0 →
      step s = .next (served s rest s.core (.fault .divZero))) ∧
    (decode r.cmd = .ok .bnext64 → s.core.e64 ≠ none → r.opa.toNat % 2 ^ 64 = 0 →
      step s = .next (served s rest s.core (.fault .divZero))) ∧
    (decode r.cmd = .ok .divrem64 → r.opb.toNat % 2 ^ 64 = 0 →
      step s = .next (served s rest s.core (.fault .divZero))) ∧
    (decode r.cmd = .ok .divrem128 → r.opb = 0 → step s = .next (served s rest s.core (.fault .divZero)))

/-- R305, R301: which command can answer which fault: DIV_ZERO only DIVREM and BNEXT, NOT_SEEDED only NEXT, BNEXT and
ADVANCE, and no instruction of the command set answers ILLEGAL_CMD. -/
def Obligations.OnlyListedCommandsFault : Prop :=
  ∀ (i : Instr) (s t : State) (code : FaultCode), i.WellFormed → exec i s = .next t →
    t.responses = s.responses ++ [.fault code] →
    (code = .divZero ∧ i ∈ [Instr.divrem64, .divrem128, .bnext32, .bnext64]) ∨
    (code = .notSeeded ∧ i ∈ [Instr.next32, .bnext32, .advance32, .next64, .bnext64, .advance64])

/-- R310: a step whose response is a fault has written no state element. -/
def Obligations.FaultWritesNoState : Prop :=
  ∀ (s t : State) (code : FaultCode), step s = .next t → t.responses = s.responses ++ [.fault code] →
    t.core = s.core

/-- R311: no fault is remembered: what a command does and answers is the same whatever the block answered before. -/
def Obligations.FaultsAreNotSticky : Prop :=
  ∀ (i : Instr) (core : CoreState) (inputs : List Input) (before : List Response) (t : State),
    exec i { core := core, inputs := inputs, responses := [] } = .next t →
    exec i { core := core, inputs := inputs, responses := before } =
      .next { core := t.core, inputs := t.inputs, responses := before ++ t.responses }

/-- R20, R23, R31, R47: only the four commands of an engine write that engine; every other instruction leaves it as it
was, the arithmetic commands both. -/
def Obligations.OnlyEngineCommandsWriteEngine : Prop :=
  ∀ (i : Instr) (s t : State), exec i s = .next t →
    (i ∉ engine32Commands → t.core.e32 = s.core.e32) ∧ (i ∉ engine64Commands → t.core.e64 = s.core.e64)

/-- R23, R27, R28: only SEED writes an increment, and no command takes a seeded engine back to unseeded. -/
def Obligations.OnlySeedWritesIncrement : Prop :=
  ∀ (i : Instr) (s t : State), exec i s = .next t →
    (i ≠ .seed32 → t.core.e32.map EngineState.inc = s.core.e32.map EngineState.inc) ∧
    (i ≠ .seed64 → t.core.e64.map EngineState.inc = s.core.e64.map EngineState.inc) ∧
    (s.core.seeded32 = true → t.core.seeded32 = true) ∧ (s.core.seeded64 = true → t.core.seeded64 = true)

/-- R50 (c): a command that does not write Engine-64 and a command that does not write Engine-32 commute: in either
order they leave the same engines and answer the same. -/
def Obligations.CommandsOfDifferentEnginesCommute : Prop :=
  ∀ (i j : Instr) (core : CoreState) (r q : Request) (t1 t2 u1 u2 : State),
    i ∉ engine64Commands → j ∉ engine32Commands →
    exec i (fresh core r) = .next t1 → exec j (fresh t1.core q) = .next t2 →
    exec j (fresh core q) = .next u1 → exec i (fresh u1.core r) = .next u2 →
    t2.core = u2.core ∧ t1.responses = u2.responses ∧ t2.responses = u1.responses

/-- R41, R46: a command's outcome does not depend on the bits of OPA and OPB above the widths it uses, nor on the word
it was decoded from. -/
def Obligations.UnusedOperandBitsAreIgnored : Prop :=
  ∀ (i : Instr) (core : CoreState) (r q : Request) (rest : List Input) (before : List Response),
    r.opa.toNat % 2 ^ (operandWidths i).1 = q.opa.toNat % 2 ^ (operandWidths i).1 →
    r.opb.toNat % 2 ^ (operandWidths i).2 = q.opb.toNat % 2 ^ (operandWidths i).2 →
    exec i { core := core, inputs := .command r :: rest, responses := before } =
      exec i { core := core, inputs := .command q :: rest, responses := before }

/-- R41, R46: on an OK response the bits of RES0 and RES1 above the widths of the command's results are zero. -/
def Obligations.UnusedResultBitsAreZero : Prop :=
  ∀ (i : Instr) (s t : State) (res0 res1 : Port), exec i s = .next t →
    t.responses = s.responses ++ [.ok res0 res1] →
    res0.toNat < 2 ^ (resultWidths i).1 ∧ res1.toNat < 2 ^ (resultWidths i).2

/-- R40: a command that completes takes exactly its own request and produces exactly one response, after all earlier
ones. -/
def Obligations.EachRequestGivesOneResponse : Prop :=
  ∀ (i : Instr) (s t : State), exec i s = .next t → ∃ (r : Request) (resp : Response),
    s.inputs = .command r :: t.inputs ∧ t.responses = s.responses ++ [resp]

/-- R25: an odd increment stays odd: every step from a state with the increment invariant, reachable or not, leads to
one with it. -/
def Obligations.EveryStepKeepsIncrementsOdd : Prop :=
  ∀ s t : State, s.IncOdd → step s = .next t → t.IncOdd

/-- R25, R30: the increment invariant holds at reset, where no engine has an increment. -/
def Obligations.ResetHasOddIncrements : Prop := State.reset.IncOdd ∧ ∀ s : State, s.core = CoreState.unseeded → s.IncOdd

/-- R40, R360: with the increment invariant the machine never stops: every step completes, and an accepted request
gets its response, whatever its word and its operands are. -/
def Obligations.EveryAcceptedCommandAnswers : Prop :=
  ∀ s : State, s.IncOdd → s.Steps ∧
    ∀ (r : Request) (rest : List Input), s.inputs = .command r :: rest →
      ∃ (t : State) (resp : Response), step s = .next t ∧ t.inputs = rest ∧ t.responses = s.responses ++ [resp]

/-- R44, R50: however many requests wait, as many steps serve them all, in order, each with one response, and no
request is lost. -/
def Obligations.WaitingRequestsAreAllServed : Prop :=
  ∀ s : State, s.IncOdd → (∀ x ∈ s.inputs, x.isCommand = true) → ∃ t : State,
    s.RunsTo s.inputs.length t ∧ t.inputs = [] ∧ t.IncOdd ∧
    s.responses <+: t.responses ∧ t.responses.length = s.responses.length + s.inputs.length

/-- R43, R310: the machine refuses nothing and stops only in a bounded draw that never ends, on an engine whose
increment is even, which no reachable state has. -/
def Obligations.OnlyEndlessDrawStops : Prop :=
  ∀ s : State, (∀ x : Refusal, step s ≠ .refused x) ∧
    ∀ x : Fault, step s = .fault x → x = .drawNeverAccepted ∧ ¬ s.IncOdd

/-! ## The host's side (spec/30_encoding.md R79, R80) -/

/-- R80, R127: the pseudo-instructions GT, GE, LE and NE, expanded on two literals and run on any block, bind their
name to 1 or 0 by the unsigned order, and leave the engines as they were. Names as numbers are the model's choice (log
entry 13). -/
def Obligations.ComparePseudosAnswerTruth : Prop :=
  ∀ (s : State) (names : Bindings) (name : Nat) (w : WidthSelect) (a b : Port) (x y : Nat),
    x = valueAt w a → y = valueAt w b →
    ∀ pseudo ∈ [(Pseudo.gt w (.literal a) (.literal b), decide (x > y)),
        (Pseudo.ge w (.literal a) (.literal b), decide (x ≥ y)),
        (Pseudo.le w (.literal a) (.literal b), decide (x ≤ y)),
        (Pseudo.ne w (.literal a) (.literal b), decide (x ≠ y))],
      ∃ (t : State) (names' : Bindings), runLines (pseudo.1.expand name) (s, names) = some (t, names') ∧
        resultsOf names' name = some (if pseudo.2 then 1 else 0, 0) ∧ t.core = s.core ∧ t.inputs = s.inputs

/-- R80, R263: STEPE moves a seeded engine by one step, and REWINDE `k` takes an engine with an odd increment back to
where it was `k` steps before. -/
def Obligations.StepAndRewindPseudosMoveEngine : Prop :=
  (∀ (s : State) (names : Bindings) (name k : Nat) (p inc : BitVec 64),
    (s.core.e32 = some { state := p, inc := inc } → ∃ t : State,
      runLines ((Pseudo.stepEngine .narrow).expand name) (s, names) = some (t, names) ∧
      t.core = { e32 := some { state := step32 p inc, inc := inc }, e64 := s.core.e64 }) ∧
    (s.core.e32 = some { state := (fun x => step32 x inc)^[k] p, inc := inc } → inc.getLsbD 0 = true →
      ∃ t : State, runLines ((Pseudo.rewind .narrow k).expand name) (s, names) = some (t, names) ∧
        t.core = { e32 := some { state := p, inc := inc }, e64 := s.core.e64 })) ∧
  ∀ (s : State) (names : Bindings) (name k : Nat) (p inc : BitVec 128),
    (s.core.e64 = some { state := p, inc := inc } → ∃ t : State,
      runLines ((Pseudo.stepEngine .wide).expand name) (s, names) = some (t, names) ∧
      t.core = { e32 := s.core.e32, e64 := some { state := step64 p inc, inc := inc } }) ∧
    (s.core.e64 = some { state := (fun x => step64 x inc)^[k] p, inc := inc } → inc.getLsbD 0 = true →
      ∃ t : State, runLines ((Pseudo.rewind .wide k).expand name) (s, names) = some (t, names) ∧
        t.core = { e32 := s.core.e32, e64 := some { state := p, inc := inc } })

/-- R80, R12: HI64 and LO64 of a 128-bit literal bind their name to its high and its low limb. -/
def Obligations.LimbPseudosSplitValue : Prop :=
  ∀ (s : State) (names : Bindings) (name : Nat) (a : Port),
    (∃ (t : State) (names' : Bindings),
      runLines ((Pseudo.hi64 (.literal a)).expand name) (s, names) = some (t, names') ∧
      resultsOf names' name = some (BitVec.ofNat 128 (a.toNat / 2 ^ 64), 0) ∧ t.core = s.core) ∧
    ∃ (t : State) (names' : Bindings),
      runLines ((Pseudo.lo64 (.literal a)).expand name) (s, names) = some (t, names') ∧
      resultsOf names' name = some (BitVec.ofNat 128 (a.toNat % 2 ^ 64), 0) ∧ t.core = s.core
end

