-- ==== Sys2Proof/Laws/Arith.lean ====
section
/-! SUPPORT. The wide-integer functions in terms of the library's bit vector operations and of the integers they stand
for, and one unfolding lemma for each loop. -/

namespace Sys2Proof.Machine

section
variable {n : Nat} (a b : BitVec n)

theorem toNat_truncN (k : Nat) : (truncN k a).toNat = a.toNat % 2 ^ k := by simp [truncN]

theorem toNat_zextN {k : Nat} (h : n ≤ k) : (zextN k a).toNat = a.toNat := by
  simp only [zextN, BitVec.toNat_setWidth]
  exact Nat.mod_eq_of_lt (a.isLt.trans_le (Nat.pow_le_pow_right (by decide) h))

theorem toNat_onPort (h : n ≤ 128) : (onPort a).toNat = a.toNat := toNat_zextN a h

theorem onPort_128 (v : BitVec 128) : onPort v = v := by simp [onPort, zextN]

theorem toNat_opA (k : Nat) (r : Request) : (opA k r).toNat = r.opa.toNat % 2 ^ k := toNat_truncN r.opa k

theorem toNat_opB (k : Nat) (r : Request) : (opB k r).toNat = r.opb.toNat % 2 ^ k := toNat_truncN r.opb k

theorem opA_128 (r : Request) : opA 128 r = r.opa := by simp [opA, truncN]

theorem opB_128 (r : Request) : opB 128 r = r.opb := by simp [opB, truncN]

theorem addN_eq : addN a b = a + b := by
  apply BitVec.eq_of_toNat_eq; simp [addN, BitVec.toNat_add]

theorem negN_eq : negN a = -a := by
  rw [negN, addN_eq, notN]; exact (BitVec.neg_eq_not_add a).symm

theorem subN_eq : subN a b = a - b := by
  rw [subN, addN_eq, negN_eq, BitVec.sub_eq_add_neg]

theorem mulN_eq : mulN a b = a * b := by
  apply BitVec.eq_of_toNat_eq; simp [mulN, BitVec.toNat_mul]

theorem toNat_mulwN : (mulwN a b).toNat = a.toNat * b.toNat := by
  simp only [mulwN, BitVec.toNat_ofNat]
  exact Nat.mod_eq_of_lt (by rw [Nat.pow_add]; exact Nat.mul_lt_mul'' a.isLt b.isLt)

theorem shlN_eq (k : Nat) : shlN a k = a <<< k := by
  unfold shlN
  split
  · apply BitVec.eq_of_toNat_eq; simp [BitVec.toNat_shiftLeft, Nat.shiftLeft_eq]
  · next h => exact (BitVec.shiftLeft_eq_zero (by omega)).symm

theorem shrN_eq (k : Nat) : shrN a k = a >>> k := by
  unfold shrN
  split
  · apply BitVec.eq_of_toNat_eq
    simp only [BitVec.toNat_ofNat, BitVec.toNat_ushiftRight, Nat.shiftRight_eq_div_pow]
    exact Nat.mod_eq_of_lt ((Nat.div_le_self _ _).trans_lt a.isLt)
  · next h => exact (BitVec.ushiftRight_eq_zero (by omega)).symm

theorem ltB_iff : ltB a b = true ↔ a < b := by simp [ltB, BitVec.lt_def]

theorem divremN_zero : divremN a 0 = none := by simp [divremN]

theorem divremN_of_ne_zero (h : b ≠ 0) : divremN a b = some (a / b, a % b) := by
  have hq : BitVec.ofNat n (a.toNat / b.toNat) = a / b := by
    apply BitVec.eq_of_toNat_eq
    rw [BitVec.toNat_ofNat, BitVec.toNat_udiv]
    exact Nat.mod_eq_of_lt ((Nat.div_le_self _ _).trans_lt a.isLt)
  have hr : BitVec.ofNat n (a.toNat % b.toNat) = a % b := by
    apply BitVec.eq_of_toNat_eq
    rw [BitVec.toNat_ofNat, BitVec.toNat_umod]
    exact Nat.mod_eq_of_lt ((Nat.mod_le _ _).trans_lt a.isLt)
  rw [divremN, if_neg h, hq, hr]

theorem stepN_eq (M C x : BitVec n) : stepN M C x = x * M + C := by rw [stepN, addN_eq, mulN_eq]
end

end Sys2Proof.Machine
end

