-- ==== Sys2Proof/Laws/State.lean ====
section
/-! SUPPORT. What each update of the state leaves in each field: true by definition, so that no proof unfolds an
update. -/

namespace Sys2Proof.Machine

@[simp] theorem CoreState.unseeded_e32 : CoreState.unseeded.e32 = none := rfl
@[simp] theorem CoreState.unseeded_e64 : CoreState.unseeded.e64 = none := rfl

section
variable (c : CoreState) (st32 inc32 : BitVec 64) (st64 inc64 : BitVec 128)
variable (e : EngineState 64) (f : EngineState 128)

@[simp] theorem CoreState.seedE32_e32 : (c.seedE32 st32 inc32).e32 = some { state := st32, inc := inc32 } := rfl
@[simp] theorem CoreState.seedE32_e64 : (c.seedE32 st32 inc32).e64 = c.e64 := rfl
@[simp] theorem CoreState.seedE64_e32 : (c.seedE64 st64 inc64).e32 = c.e32 := rfl
@[simp] theorem CoreState.seedE64_e64 : (c.seedE64 st64 inc64).e64 = some { state := st64, inc := inc64 } := rfl
@[simp] theorem CoreState.moveE32_e32 : (c.moveE32 e st32).e32 = some { state := st32, inc := e.inc } := rfl
@[simp] theorem CoreState.moveE32_e64 : (c.moveE32 e st32).e64 = c.e64 := rfl
@[simp] theorem CoreState.moveE64_e32 : (c.moveE64 f st64).e32 = c.e32 := rfl
@[simp] theorem CoreState.moveE64_e64 : (c.moveE64 f st64).e64 = some { state := st64, inc := f.inc } := rfl
end

section
variable (s : State) (rest : List Input) (c : CoreState) (resp : Response) (code : FaultCode) (cmd : CommandWord)

@[simp] theorem State.respond_core : (s.respond rest c resp).core = c := rfl
@[simp] theorem State.respond_inputs : (s.respond rest c resp).inputs = rest := rfl
@[simp] theorem State.respond_responses : (s.respond rest c resp).responses = s.responses ++ [resp] := rfl
@[simp] theorem State.raiseFault_core : (s.raiseFault rest code).core = s.core := rfl
@[simp] theorem State.raiseFault_inputs : (s.raiseFault rest code).inputs = rest := rfl
@[simp] theorem State.raiseFault_responses :
    (s.raiseFault rest code).responses = s.responses ++ [.fault code] := rfl
@[simp] theorem State.resetBlock_core : (s.resetBlock rest).core = CoreState.unseeded := rfl
@[simp] theorem State.resetBlock_inputs : (s.resetBlock rest).inputs = rest := rfl
@[simp] theorem State.resetBlock_responses : (s.resetBlock rest).responses = s.responses := rfl

/-- Presenting a word touches neither the engines nor the responses. -/
@[simp] theorem State.presentWord_core : (s.presentWord cmd).core = s.core := by
  unfold State.presentWord; split <;> rfl

@[simp] theorem State.presentWord_responses : (s.presentWord cmd).responses = s.responses := by
  unfold State.presentWord; split <;> rfl

/-- After a word is presented, the next input is a request with that word. -/
theorem State.presentWord_inputs :
    ∃ r rest, (s.presentWord cmd).inputs = .command r :: rest ∧ r.cmd = cmd := by
  unfold State.presentWord; split <;> exact ⟨_, _, rfl, rfl⟩
end

end Sys2Proof.Machine
end

