-- ==== Sys2Proof/Laws/Draw.lean ====
section
/-! SUPPORT. What a bounded draw can do, said once: the loop of `drawWithin` in terms of the draws `next` makes one
after the other, and each engine's command in terms of what its loop ends with. -/

namespace Sys2Proof.Machine

section
variable {S W : Nat} (next : BitVec S → BitVec S × BitVec W) (t : BitVec W)

/-- The state after `j` draws from `p`. -/
def stateAfter (j : Nat) (p : BitVec S) : BitVec S := (fun x => (next x).1)^[j] p

/-- Draw number `j` from `p`, counted from 0. -/
def drawNumber (j : Nat) (p : BitVec S) : BitVec W := (next (stateAfter next j p)).2

theorem stateAfter_add (i j : Nat) (p : BitVec S) :
    stateAfter next (i + j) p = stateAfter next i (stateAfter next j p) := by
  simp [stateAfter, Function.iterate_add_apply]

theorem stateAfter_succ (j : Nat) (p : BitVec S) :
    stateAfter next (j + 1) p = (next (stateAfter next j p)).1 := by
  simp [stateAfter, Function.iterate_succ_apply']

theorem drawNumber_add (i j : Nat) (p : BitVec S) :
    drawNumber next (i + j) p = drawNumber next i (stateAfter next j p) := by
  simp [drawNumber, stateAfter_add]

/-- If the first `2 ^ level` draws are below the threshold, all of them are rejected. -/
theorem drawWithin_rejected (level : Nat) (p : BitVec S) (h : ∀ j, j < 2 ^ level → drawNumber next j p < t) :
    drawWithin next t level p = .rejected (stateAfter next (2 ^ level) p) := by
  induction level generalizing p with
  | zero =>
    have h0 : (next p).2 < t := h 0 (by simp)
    simp [drawWithin, (ltB_iff _ _).2 h0, stateAfter]
  | succ level ih =>
    have hp : 2 ^ (level + 1) = 2 ^ level + 2 ^ level := by rw [Nat.pow_succ, Nat.mul_two]
    rw [drawWithin, ih p fun j hj => h j (by omega), hp, stateAfter_add]
    exact ih _ fun j hj => by rw [← drawNumber_add]; exact h _ (by omega)

/-- If draw `k` is the first that is not below the threshold, and the loop reaches it, the loop accepts it. -/
theorem drawWithin_accepted (level : Nat) (p : BitVec S) (k : Nat) (hk : k < 2 ^ level)
    (hlt : ∀ j, j < k → drawNumber next j p < t) (hge : ¬ drawNumber next k p < t) :
    drawWithin next t level p = .accepted (stateAfter next (k + 1) p) (drawNumber next k p) := by
  induction level generalizing p k with
  | zero =>
    obtain rfl : k = 0 := by simpa using hk
    have h0 : ltB (next p).2 t = false := by
      rw [Bool.eq_false_iff]; exact fun h => hge ((ltB_iff _ _).1 h)
    simp [drawWithin, h0, stateAfter, drawNumber]
  | succ level ih =>
    have hp : 2 ^ (level + 1) = 2 ^ level + 2 ^ level := by rw [Nat.pow_succ, Nat.mul_two]
    rw [drawWithin]
    by_cases hhalf : k < 2 ^ level
    · rw [ih p k hhalf hlt hge]
    · obtain ⟨d, rfl⟩ : ∃ d, k = d + 2 ^ level := ⟨k - 2 ^ level, by omega⟩
      rw [drawWithin_rejected next t level p fun j hj => hlt j (by omega)]
      have := ih (stateAfter next (2 ^ level) p) d (by omega)
        (fun j hj => by rw [← drawNumber_add]; exact hlt _ (by omega)) (by rwa [← drawNumber_add])
      simp only [this, ← drawNumber_add, ← stateAfter_add]
      rw [Nat.add_right_comm]

/-- All that the loop can do. -/
theorem drawWithin_cases (level : Nat) (p : BitVec S) :
    (∃ k, k < 2 ^ level ∧ (∀ j, j < k → drawNumber next j p < t) ∧ ¬ drawNumber next k p < t ∧
      drawWithin next t level p = .accepted (stateAfter next (k + 1) p) (drawNumber next k p)) ∨
    (∀ j, j < 2 ^ level → drawNumber next j p < t) ∧
      drawWithin next t level p = .rejected (stateAfter next (2 ^ level) p) := by
  by_cases h : ∃ k, k < 2 ^ level ∧ ¬ drawNumber next k p < t
  · have hk := Nat.find_spec h
    have hmin : ∀ j, j < Nat.find h → drawNumber next j p < t := fun j hj => by
      by_contra hc
      exact Nat.find_min h hj ⟨by omega, hc⟩
    exact .inl ⟨Nat.find h, hk.1, hmin, hk.2, drawWithin_accepted next t level p _ hk.1 hmin hk.2⟩
  · have hall : ∀ j, j < 2 ^ level → drawNumber next j p < t := fun j hj => by
      by_contra hc
      exact h ⟨j, hj, hc⟩
    exact .inr ⟨hall, drawWithin_rejected next t level p hall⟩
end

section
variable {S W : Nat} (onAccept : BitVec S → BitVec W → CommandResult) (p : BitVec S) (r : BitVec W)

@[simp] theorem answerDraw_accepted : answerDraw (.accepted p r) onAccept = onAccept p r := rfl
@[simp] theorem answerDraw_rejected : answerDraw (.rejected p) onAccept = .endless := rfl
end

section
variable (core : CoreState)

/-- A zero bound fails before any draw (R208). -/
theorem bnext32_zero (e : EngineState 64) : bnext32 core e 0 = .raised .divZero := by
  rw [bnext32, if_pos rfl]

/-- A bounded draw answers the draw its loop accepts (R207). -/
theorem bnext32_of_accepted {e : EngineState 64} {bound : BitVec 32} (hb : bound ≠ 0) {p : BitVec 64}
    {v : BitVec 32}
    (h : drawWithin (next32 · e.inc) (threshold32 bound) (Config.drawLevels 64) e.state = .accepted p v) :
    bnext32 core e bound =
      .done (core.moveE32 e p) (onPort (BitVec.ofNat 32 (v.toNat % bound.toNat))) unusedPort := by
  rw [bnext32, if_neg hb, h, answerDraw_accepted]

/-- A bounded draw whose loop accepts nothing never ends (R214). -/
theorem bnext32_of_rejected {e : EngineState 64} {bound : BitVec 32} (hb : bound ≠ 0) {p : BitVec 64}
    (h : drawWithin (next32 · e.inc) (threshold32 bound) (Config.drawLevels 64) e.state = .rejected p) :
    bnext32 core e bound = .endless := by
  rw [bnext32, if_neg hb, h, answerDraw_rejected]

/-- The threshold of R236, for a bound that is not zero. -/
theorem threshold64_of_ne_zero {bound : BitVec 64} (hb : bound ≠ 0) :
    threshold64 bound = some (-bound % bound) := by
  rw [threshold64, divremN_of_ne_zero _ _ hb, negN_eq]; rfl

/-- A zero bound has no threshold: its division fails (R238). -/
theorem threshold64_zero : threshold64 0 = none := by
  rw [threshold64, divremN_zero]; rfl

/-- A zero bound fails before any draw (R238). -/
theorem bnext64_zero (e : EngineState 128) : bnext64 core e 0 = .raised .divZero := by
  rw [bnext64, threshold64_zero]

/-- A bounded draw answers the draw its loop accepts (R237). -/
theorem bnext64_of_accepted {e : EngineState 128} {bound : BitVec 64} (hb : bound ≠ 0) {p : BitVec 128}
    {v : BitVec 64}
    (h : drawWithin (next64 · e.inc) (-bound % bound) (Config.drawLevels 128) e.state = .accepted p v) :
    bnext64 core e bound = .done (core.moveE64 e p) (onPort (v % bound)) unusedPort := by
  simp only [bnext64, threshold64_of_ne_zero hb, h, answerDraw_accepted, divremN_of_ne_zero v bound hb]

/-- A bounded draw whose loop accepts nothing never ends (R244). -/
theorem bnext64_of_rejected {e : EngineState 128} {bound : BitVec 64} (hb : bound ≠ 0) {p : BitVec 128}
    (h : drawWithin (next64 · e.inc) (-bound % bound) (Config.drawLevels 128) e.state = .rejected p) :
    bnext64 core e bound = .endless := by
  simp only [bnext64, threshold64_of_ne_zero hb, h, answerDraw_rejected]
end

end Sys2Proof.Machine
end

