-- ==== Sys2Proof/Laws/Ops.lean ====
section
/-! SUPPORT. What each shared operation can do, said once: later proofs cite these and do not unfold the operation. -/

namespace Sys2Proof.Machine

section
variable {s t : State} {r : Request} {rest : List Input}

@[simp] theorem State.settle_done (core : CoreState) (res0 res1 : Port) :
    s.settle rest (.done core res0 res1) = .next (s.respond rest core (.ok res0 res1)) := rfl

@[simp] theorem State.settle_raised (code : FaultCode) :
    s.settle rest (.raised code) = .next (s.raiseFault rest code) := rfl

@[simp] theorem State.settle_endless : s.settle rest .endless = .fault .drawNeverAccepted := rfl

/-- Where a request is next, `runCommand` ends as its function says. -/
theorem runCommand_of_command (h : s.inputs = .command r :: rest) (f : Request → CoreState → CommandResult) :
    runCommand s f = s.settle rest (f r s.core) := by
  simp only [runCommand, h]

/-- All that `runCommand` can do when it answers a next state. -/
theorem runCommand_next {f : Request → CoreState → CommandResult} (h : runCommand s f = .next t) :
    ∃ r rest, s.inputs = .command r :: rest ∧
      ((∃ core res0 res1, f r s.core = .done core res0 res1 ∧ t = s.respond rest core (.ok res0 res1)) ∨
        ∃ code, f r s.core = .raised code ∧ t = s.raiseFault rest code) := by
  unfold runCommand at h
  split at h
  next r rest hin =>
    refine ⟨r, rest, hin, ?_⟩
    cases hf : f r s.core <;> simp_all
  next => simp at h

/-- `runCommand` never refuses. -/
theorem runCommand_ne_refused (f : Request → CoreState → CommandResult) (x : Refusal) :
    runCommand s f ≠ .refused x := by
  unfold runCommand
  split
  next r rest _ => cases f r s.core <;> simp
  next => simp

/-- The one way `runCommand` faults where a request is next: a command that never ends. -/
theorem runCommand_fault {f : Request → CoreState → CommandResult} {x : Fault}
    (h : s.inputs = .command r :: rest) (hf : runCommand s f = .fault x) :
    x = .drawNeverAccepted ∧ f r s.core = .endless := by
  rw [runCommand_of_command h] at hf
  cases hr : f r s.core <;> simp_all

/-- An arithmetic command answers with its function of the request and writes no state. -/
theorem runArith_of_command (h : s.inputs = .command r :: rest) (f : Request → Port × Port) :
    runArith s f = .next (s.respond rest s.core (.ok (f r).1 (f r).2)) := by
  simp [runArith, runCommand_of_command h]

theorem runArith1_of_command (h : s.inputs = .command r :: rest) (f : Request → Port) :
    runArith1 s f = .next (s.respond rest s.core (.ok (f r) unusedPort)) := by
  simp [runArith1, runArith_of_command h]

/-- A command of Engine-32 on an unseeded engine takes NOT_SEEDED. -/
theorem runEngine32_of_unseeded (h : s.inputs = .command r :: rest) (he : s.core.e32 = none)
    (f : Request → CoreState → EngineState 64 → CommandResult) :
    runEngine32 s f = .next (s.raiseFault rest .notSeeded) := by
  simp [runEngine32, runCommand_of_command h, he]

/-- On a seeded engine it runs as its function says. -/
theorem runEngine32_of_seeded {e : EngineState 64} (he : s.core.e32 = some e)
    (f : Request → CoreState → EngineState 64 → CommandResult) (h : s.inputs = .command r :: rest) :
    runEngine32 s f = runCommand s fun r core => f r core e := by
  simp [runEngine32, runCommand_of_command h, he]

/-- A command of Engine-64 on an unseeded engine takes NOT_SEEDED. -/
theorem runEngine64_of_unseeded (h : s.inputs = .command r :: rest) (he : s.core.e64 = none)
    (f : Request → CoreState → EngineState 128 → CommandResult) :
    runEngine64 s f = .next (s.raiseFault rest .notSeeded) := by
  simp [runEngine64, runCommand_of_command h, he]

/-- On a seeded engine it runs as its function says. -/
theorem runEngine64_of_seeded {e : EngineState 128} (he : s.core.e64 = some e)
    (f : Request → CoreState → EngineState 128 → CommandResult) (h : s.inputs = .command r :: rest) :
    runEngine64 s f = runCommand s fun r core => f r core e := by
  simp [runEngine64, runCommand_of_command h, he]
end

/-- A request with a legal word runs the instruction it decodes to (R43, R81). -/
theorem fetch_of_legal {s : State} {r : Request} {rest : List Input} {i : Instr}
    (h : s.inputs = .command r :: rest) (hd : decode r.cmd = .ok i) : fetch s = .run i := by
  simp [fetch, h, hd]

/-- A request with an illegal word runs nothing (R76). -/
theorem fetch_of_illegal {s : State} {r : Request} {rest : List Input} {e : Illegal}
    (h : s.inputs = .command r :: rest) (hd : decode r.cmd = .error e) : fetch s = .illegal rest := by
  simp [fetch, h, hd]

end Sys2Proof.Machine
end

