-- ==== Sys2Proof/Laws/Exec.lean ====
section
/-! SUPPORT. Every instruction as a function of its request and the engines, said once: `exec i` serves the next request
with `effect i`, and nothing else, so that a proof over all instructions opens one table and no meaning. -/

namespace Sys2Proof.Machine

/-- An arithmetic result on RES0 alone. -/
def oneResult {k : Nat} (core : CoreState) (v : BitVec k) : CommandResult := .done core (onPort v) unusedPort

/-- A quotient and a remainder, or the fault of a zero divisor. -/
def divisionResult {n : Nat} (core : CoreState) : Option (BitVec n × BitVec n) → CommandResult
  | none => .raised .divZero
  | some (q, rem) => .done core (onPort q) (onPort rem)

/-- What needs Engine-32 seeded. -/
def withE32 (core : CoreState) (f : EngineState 64 → CommandResult) : CommandResult :=
  match core.e32 with
  | none => .raised .notSeeded
  | some e => f e

/-- What needs Engine-64 seeded. -/
def withE64 (core : CoreState) (f : EngineState 128 → CommandResult) : CommandResult :=
  match core.e64 with
  | none => .raised .notSeeded
  | some e => f e

/-- How each instruction's command ends. -/
def effect (i : Instr) (r : Request) (core : CoreState) : CommandResult :=
  match i with
  | .add64 => oneResult core (addN (opA 64 r) (opB 64 r))
  | .add128 => oneResult core (addN (opA 128 r) (opB 128 r))
  | .sub64 => oneResult core (subN (opA 64 r) (opB 64 r))
  | .sub128 => oneResult core (subN (opA 128 r) (opB 128 r))
  | .neg64 => oneResult core (negN (opA 64 r))
  | .neg128 => oneResult core (negN (opA 128 r))
  | .and64 => oneResult core (andN (opA 64 r) (opB 64 r))
  | .and128 => oneResult core (andN (opA 128 r) (opB 128 r))
  | .or64 => oneResult core (orN (opA 64 r) (opB 64 r))
  | .or128 => oneResult core (orN (opA 128 r) (opB 128 r))
  | .xor64 => oneResult core (xorN (opA 64 r) (opB 64 r))
  | .xor128 => oneResult core (xorN (opA 128 r) (opB 128 r))
  | .not64 => oneResult core (notN (opA 64 r))
  | .not128 => oneResult core (notN (opA 128 r))
  | .shl64 n => oneResult core (shlN (opA 64 r) n.toNat)
  | .shl128 n => oneResult core (shlN (opA 128 r) n.toNat)
  | .shr64 n => oneResult core (shrN (opA 64 r) n.toNat)
  | .shr128 n => oneResult core (shrN (opA 128 r) n.toNat)
  | .eq64 => oneResult core (eqN (opA 64 r) (opB 64 r))
  | .eq128 => oneResult core (eqN (opA 128 r) (opB 128 r))
  | .lt64 => oneResult core (ltN (opA 64 r) (opB 64 r))
  | .lt128 => oneResult core (ltN (opA 128 r) (opB 128 r))
  | .trunc64 k =>
    if castWidths64.contains k then oneResult core (truncN k.toNat (opA 64 r)) else .raised .illegalCmd
  | .trunc128 k =>
    if castWidths128.contains k then oneResult core (truncN k.toNat (opA 128 r)) else .raised .illegalCmd
  | .mul64 => oneResult core (mulN (opA 64 r) (opB 64 r))
  | .mul128 => oneResult core (mulN (opA 128 r) (opB 128 r))
  | .mulw64 => oneResult core (mulwN (opA 64 r) (opB 64 r))
  | .mulw128 =>
    .done core (onPort ((mulwN (opA 128 r) (opB 128 r)).extractLsb' 0 128))
      (onPort ((mulwN (opA 128 r) (opB 128 r)).extractLsb' 128 128))
  | .divrem64 => divisionResult core (divremN (opA 64 r) (opB 64 r))
  | .divrem128 => divisionResult core (divremN (opA 128 r) (opB 128 r))
  | .seed32 =>
    .done (core.seedE32 (seed32 (opA 64 r) (opB 64 r)).1 (seed32 (opA 64 r) (opB 64 r)).2) unusedPort unusedPort
  | .seed64 =>
    .done (core.seedE64 (seed64 (opA 128 r) (opB 128 r)).1 (seed64 (opA 128 r) (opB 128 r)).2) unusedPort unusedPort
  | .next32 => withE32 core fun e => oneResult (core.moveE32 e (next32 e.state e.inc).1) (next32 e.state e.inc).2
  | .next64 => withE64 core fun e => oneResult (core.moveE64 e (next64 e.state e.inc).1) (next64 e.state e.inc).2
  | .bnext32 => withE32 core fun e => bnext32 core e (opA 32 r)
  | .bnext64 => withE64 core fun e => bnext64 core e (opA 64 r)
  | .advance32 => withE32 core fun e =>
    .done (core.moveE32 e (advanceN e.state (opA 64 r) multiplier64 e.inc)) unusedPort unusedPort
  | .advance64 => withE64 core fun e =>
    .done (core.moveE64 e (advanceN e.state (opA 128 r) multiplier128 e.inc)) unusedPort unusedPort

/-- Every instruction serves the next request with its effect. -/
theorem exec_eq_runCommand (i : Instr) (s : State) : exec i s = runCommand s (effect i) := by
  cases i <;> rfl

/-- All that an instruction can do when it answers a next state. -/
theorem exec_next {i : Instr} {s t : State} (h : exec i s = .next t) :
    ∃ r rest, s.inputs = .command r :: rest ∧
      ((∃ core res0 res1, effect i r s.core = .done core res0 res1 ∧ t = s.respond rest core (.ok res0 res1)) ∨
        ∃ code, effect i r s.core = .raised code ∧ t = s.raiseFault rest code) :=
  runCommand_next (exec_eq_runCommand i s ▸ h)

/-- A step at a request with a legal word. -/
theorem step_of_decode {s : State} {r : Request} {rest : List Input} {i : Instr}
    (h : s.inputs = .command r :: rest) (hd : decode r.cmd = .ok i) :
    step s = s.settle rest (effect i r s.core) := by
  rw [← runCommand_of_command h, ← exec_eq_runCommand, step, fetch_of_legal h hd]

/-- A step at a request with an illegal word. -/
theorem step_of_illegal {s : State} {r : Request} {rest : List Input} {e : Illegal}
    (h : s.inputs = .command r :: rest) (hd : decode r.cmd = .error e) :
    step s = .next (s.raiseFault rest .illegalCmd) := by
  rw [step, fetch_of_illegal h hd]

end Sys2Proof.Machine
end

