-- ==== Sys2Proof/Laws/PerInstr.lean ====
section
/-! SUPPORT. The laws stated per instruction: one lemma per constructor of `Instr`. -/

namespace Sys2Proof.Laws

/-- Both reserved fields of a word are zero (spec/30_encoding.md R75). -/
abbrev ReservedZero (cmd : CommandWord) : Prop := cmd.z0 = 0 ∧ cmd.z1 = 0

/-- The format F0 leaves both reserved fields zero, whatever its fields (R71). -/
theorem reservedZero_commandWord (op : BitVec 8) (w : Bool) (imm8 : Imm8) :
    ReservedZero (commandWord op w imm8) := by
  constructor <;> ext i hi <;>
    simp only [CommandWord.z0, CommandWord.z1, commandWord, BitVec.getElem_extractLsb', BitVec.getLsbD_append]
  · have h1 : ¬ (9 + i < 8) := by omega
    have h2 : ¬ (9 + i - 8 < 1) := by omega
    have h3 : 9 + i - 8 - 1 < 7 := by omega
    simp [h1, h2, h3]
  · have h1 : ¬ (24 + i < 8) := by omega
    have h2 : ¬ (24 + i - 8 < 1) := by omega
    have h3 : ¬ (24 + i - 8 - 1 < 7) := by omega
    have h4 : ¬ (24 + i - 8 - 1 - 7 < 8) := by omega
    simp [h1, h2, h3, h4]

end Sys2Proof.Laws

namespace Sys2Proof.Laws.EncodedReserved

/-- The encoding of an instruction has zero in both reserved fields (R71, R75). -/
def Statement (i : Instr) : Prop := ReservedZero (encode i)

theorem add64 : Statement .add64 := reservedZero_commandWord _ _ 0
theorem add128 : Statement .add128 := reservedZero_commandWord _ _ 0
theorem sub64 : Statement .sub64 := reservedZero_commandWord _ _ 0
theorem sub128 : Statement .sub128 := reservedZero_commandWord _ _ 0
theorem neg64 : Statement .neg64 := reservedZero_commandWord _ _ 0
theorem neg128 : Statement .neg128 := reservedZero_commandWord _ _ 0
theorem and64 : Statement .and64 := reservedZero_commandWord _ _ 0
theorem and128 : Statement .and128 := reservedZero_commandWord _ _ 0
theorem or64 : Statement .or64 := reservedZero_commandWord _ _ 0
theorem or128 : Statement .or128 := reservedZero_commandWord _ _ 0
theorem xor64 : Statement .xor64 := reservedZero_commandWord _ _ 0
theorem xor128 : Statement .xor128 := reservedZero_commandWord _ _ 0
theorem not64 : Statement .not64 := reservedZero_commandWord _ _ 0
theorem not128 : Statement .not128 := reservedZero_commandWord _ _ 0
theorem shl64 (n : Imm8) : Statement (.shl64 n) := reservedZero_commandWord _ _ n
theorem shl128 (n : Imm8) : Statement (.shl128 n) := reservedZero_commandWord _ _ n
theorem shr64 (n : Imm8) : Statement (.shr64 n) := reservedZero_commandWord _ _ n
theorem shr128 (n : Imm8) : Statement (.shr128 n) := reservedZero_commandWord _ _ n
theorem eq64 : Statement .eq64 := reservedZero_commandWord _ _ 0
theorem eq128 : Statement .eq128 := reservedZero_commandWord _ _ 0
theorem lt64 : Statement .lt64 := reservedZero_commandWord _ _ 0
theorem lt128 : Statement .lt128 := reservedZero_commandWord _ _ 0
theorem trunc64 (n : Imm8) : Statement (.trunc64 n) := reservedZero_commandWord _ _ n
theorem trunc128 (n : Imm8) : Statement (.trunc128 n) := reservedZero_commandWord _ _ n
theorem mul64 : Statement .mul64 := reservedZero_commandWord _ _ 0
theorem mul128 : Statement .mul128 := reservedZero_commandWord _ _ 0
theorem mulw64 : Statement .mulw64 := reservedZero_commandWord _ _ 0
theorem mulw128 : Statement .mulw128 := reservedZero_commandWord _ _ 0
theorem divrem64 : Statement .divrem64 := reservedZero_commandWord _ _ 0
theorem divrem128 : Statement .divrem128 := reservedZero_commandWord _ _ 0
theorem seed32 : Statement .seed32 := reservedZero_commandWord _ _ 0
theorem seed64 : Statement .seed64 := reservedZero_commandWord _ _ 0
theorem next32 : Statement .next32 := reservedZero_commandWord _ _ 0
theorem next64 : Statement .next64 := reservedZero_commandWord _ _ 0
theorem bnext32 : Statement .bnext32 := reservedZero_commandWord _ _ 0
theorem bnext64 : Statement .bnext64 := reservedZero_commandWord _ _ 0
theorem advance32 : Statement .advance32 := reservedZero_commandWord _ _ 0
theorem advance64 : Statement .advance64 := reservedZero_commandWord _ _ 0

end Sys2Proof.Laws.EncodedReserved
end

