-- ==== Sys2Proof/Tests/Slice0.lean ====
section
/-! SUPPORT. Tests: the words of spec/30_encoding.md written out bit by bit, one-step answers taken from the vectors of
spec/95_test_vectors.md and spec/96_test_vectors_arithmetic.md (the vector's id stands at each), the WellFormed smoke
test, and for each statement with hypotheses a state that meets them. -/

namespace Sys2Proof.Tests

open Sys2Proof.Machine Sys2Proof.Certificates

/-- Both engines unseeded. -/
def unseeded : CoreState := CoreState.unseeded

/-- Both engines after SEED with 42 and 54 (V3, V31). -/
def seeded : CoreState :=
  { e32 := some { state := 0x185706B82C2E03F8, inc := 0x6D }
    e64 := some { state := 0xDE2BCE05BE013BE3D3F6C45A41E54320, inc := 0x6D } }

/-- Both engines one NEXT later (V4, V32). -/
def afterNext : CoreState :=
  { e32 := some { state := 0x2B47FED88766BB05, inc := 0x6D }
    e64 := some { state := 0x10AF065F4EA96E857BB2A7886ECBD80D, inc := 0x6D } }

/-- A request. -/
def req (cmd : CommandWord) (a b : Port) : Request := { cmd := cmd, opa := a, opb := b }

/-- A block with one request waiting. -/
def block (core : CoreState) (cmd : CommandWord) (a b : Port) : State := fresh core (req cmd a b)

/-- The last response of an outcome. -/
def answer : Host.Outcome State Fault Refusal → Option Response
  | .next s => s.responses.getLast?
  | _ => none

/-- The engines after an outcome. -/
def engines : Host.Outcome State Fault Refusal → Option CoreState
  | .next s => some s.core
  | _ => none

/-! ## WellFormed: each check refuses an ill-formed term (R145, R146) -/

theorem test_wellFormed_refuses_trunc64 : ¬ (Instr.trunc64 24).WellFormed ∧ ¬ (Instr.trunc64 64).WellFormed := by decide
theorem test_wellFormed_refuses_trunc128 : ¬ (Instr.trunc128 0).WellFormed ∧ ¬ (Instr.trunc128 128).WellFormed := by decide
theorem test_wellFormed_admits : (Instr.trunc64 32).WellFormed ∧ (Instr.trunc128 64).WellFormed := by decide

/-! ## Decoding: `z1 imm8 z0 w op` written out bit by bit (R71, R74) -/

theorem test_decode_add64 : decode 0b00000000_00000000_0000000_0_00000001#32 = .ok .add64 := by decide
theorem test_decode_add128 : decode 0b00000000_00000000_0000000_1_00000001#32 = .ok .add128 := by decide
theorem test_decode_sub64 : decode 0b00000000_00000000_0000000_0_00000010#32 = .ok .sub64 := by decide
theorem test_decode_sub128 : decode 0b00000000_00000000_0000000_1_00000010#32 = .ok .sub128 := by decide
theorem test_decode_neg64 : decode 0b00000000_00000000_0000000_0_00000011#32 = .ok .neg64 := by decide
theorem test_decode_neg128 : decode 0b00000000_00000000_0000000_1_00000011#32 = .ok .neg128 := by decide
theorem test_decode_and64 : decode 0b00000000_00000000_0000000_0_00000100#32 = .ok .and64 := by decide
theorem test_decode_and128 : decode 0b00000000_00000000_0000000_1_00000100#32 = .ok .and128 := by decide
theorem test_decode_or64 : decode 0b00000000_00000000_0000000_0_00000101#32 = .ok .or64 := by decide
theorem test_decode_or128 : decode 0b00000000_00000000_0000000_1_00000101#32 = .ok .or128 := by decide
theorem test_decode_xor64 : decode 0b00000000_00000000_0000000_0_00000110#32 = .ok .xor64 := by decide
theorem test_decode_xor128 : decode 0b00000000_00000000_0000000_1_00000110#32 = .ok .xor128 := by decide
theorem test_decode_not64 : decode 0b00000000_00000000_0000000_0_00000111#32 = .ok .not64 := by decide
theorem test_decode_not128 : decode 0b00000000_00000000_0000000_1_00000111#32 = .ok .not128 := by decide
theorem test_decode_shl64 : decode 0b00000000_00111111_0000000_0_00001000#32 = .ok (.shl64 0x3f) := by decide
theorem test_decode_shl128 : decode 0b00000000_11111111_0000000_1_00001000#32 = .ok (.shl128 0xff) := by decide
theorem test_decode_shr64 : decode 0b00000000_01000000_0000000_0_00001001#32 = .ok (.shr64 0x40) := by decide
theorem test_decode_shr128 : decode 0b00000000_01111010_0000000_1_00001001#32 = .ok (.shr128 0x7a) := by decide
theorem test_decode_eq64 : decode 0b00000000_00000000_0000000_0_00001010#32 = .ok .eq64 := by decide
theorem test_decode_eq128 : decode 0b00000000_00000000_0000000_1_00001010#32 = .ok .eq128 := by decide
theorem test_decode_lt64 : decode 0b00000000_00000000_0000000_0_00001011#32 = .ok .lt64 := by decide
theorem test_decode_lt128 : decode 0b00000000_00000000_0000000_1_00001011#32 = .ok .lt128 := by decide
theorem test_decode_trunc64 : decode 0b00000000_00100000_0000000_0_00001100#32 = .ok (.trunc64 0x20) := by decide
theorem test_decode_trunc128 : decode 0b00000000_01000000_0000000_1_00001100#32 = .ok (.trunc128 0x40) := by decide
theorem test_decode_mul64 : decode 0b00000000_00000000_0000000_0_00010000#32 = .ok .mul64 := by decide
theorem test_decode_mul128 : decode 0b00000000_00000000_0000000_1_00010000#32 = .ok .mul128 := by decide
theorem test_decode_mulw64 : decode 0b00000000_00000000_0000000_0_00010001#32 = .ok .mulw64 := by decide
theorem test_decode_mulw128 : decode 0b00000000_00000000_0000000_1_00010001#32 = .ok .mulw128 := by decide
theorem test_decode_divrem64 : decode 0b00000000_00000000_0000000_0_00011000#32 = .ok .divrem64 := by decide
theorem test_decode_divrem128 : decode 0b00000000_00000000_0000000_1_00011000#32 = .ok .divrem128 := by decide
theorem test_decode_seed32 : decode 0b00000000_00000000_0000000_0_00100000#32 = .ok .seed32 := by decide
theorem test_decode_seed64 : decode 0b00000000_00000000_0000000_1_00100000#32 = .ok .seed64 := by decide
theorem test_decode_next32 : decode 0b00000000_00000000_0000000_0_00100001#32 = .ok .next32 := by decide
theorem test_decode_next64 : decode 0b00000000_00000000_0000000_1_00100001#32 = .ok .next64 := by decide
theorem test_decode_bnext32 : decode 0b00000000_00000000_0000000_0_00100010#32 = .ok .bnext32 := by decide
theorem test_decode_bnext64 : decode 0b00000000_00000000_0000000_1_00100010#32 = .ok .bnext64 := by decide
theorem test_decode_advance32 : decode 0b00000000_00000000_0000000_0_00100011#32 = .ok .advance32 := by decide
theorem test_decode_advance64 : decode 0b00000000_00000000_0000000_1_00100011#32 = .ok .advance64 := by decide

/-! ## One step each -/

/-- V108. -/
theorem test_add64 : answer (step (block unseeded 0x1 0xffffffffffffffff 0x1)) = some (.ok 0 0) := by decide

/-- V112. -/
theorem test_add64_ignores_upper_bits : answer (step (block unseeded 0x1 0x10000000000000005 0x70000000000000000000000003)) = some (.ok 8 0) := by decide

/-- V113. -/
theorem test_add128 : answer (step (block unseeded 0x101 0xffffffffffffffff 0x1)) = some (.ok 0x10000000000000000 0) := by decide

/-- V119. -/
theorem test_sub64 : answer (step (block unseeded 0x2 0x3 0x5)) = some (.ok 0xFFFFFFFFFFFFFFFE 0) := by decide

/-- V122. -/
theorem test_sub128 : answer (step (block unseeded 0x102 0x10000000000000000 0x1)) = some (.ok 0xFFFFFFFFFFFFFFFF 0) := by decide

/-- V125. -/
theorem test_neg64 : answer (step (block unseeded 0x3 0x6 0x0)) = some (.ok 0xFFFFFFFFFFFFFFFA 0) := by decide

/-- V130. -/
theorem test_neg128 : answer (step (block unseeded 0x103 0x10000000000000000 0x0)) = some (.ok 0xFFFFFFFFFFFFFFFF0000000000000000 0) := by decide

/-- V134. -/
theorem test_and64 : answer (step (block unseeded 0x4 0xff00ff00ff00ff00 0xff00ff00ff00ff0)) = some (.ok 0x0F000F000F000F00 0) := by decide

/-- V137. -/
theorem test_and128 : answer (step (block unseeded 0x104 0xffffffffffffffff0000000000000000 0x123456789abcdef0123456789abcdef)) = some (.ok 0x0123456789ABCDEF0000000000000000 0) := by decide

/-- V138. -/
theorem test_or64 : answer (step (block unseeded 0x5 0x6c 0x1)) = some (.ok 0x6D 0) := by decide

/-- V140. -/
theorem test_or128 : answer (step (block unseeded 0x105 0x80000000000000000000000000000000 0x1)) = some (.ok 0x80000000000000000000000000000001 0) := by decide

/-- V141. -/
theorem test_xor64 : answer (step (block unseeded 0x6 0xffff0000ffff0000 0xffff0000ffff00)) = some (.ok 0xFF00FF00FF00FF00 0) := by decide

/-- V143. -/
theorem test_xor128 : answer (step (block unseeded 0x106 0x123456789abcdeffedcba9876543210 0xffffffffffffffffffffffffffffffff)) = some (.ok 0xFEDCBA98765432100123456789ABCDEF 0) := by decide

/-- V146. -/
theorem test_not64 : answer (step (block unseeded 0x7 0xffffffffffffffffffffffffffffffff 0x0)) = some (.ok 0 0) := by decide

/-- V144. -/
theorem test_not64_stays_at_its_width : answer (step (block unseeded 0x7 0xffffffff 0x0)) = some (.ok 0xFFFFFFFF00000000 0) := by decide

/-- V147. -/
theorem test_not128 : answer (step (block unseeded 0x107 0x0 0x0)) = some (.ok 0xFFFFFFFFFFFFFFFFFFFFFFFFFFFFFFFF 0) := by decide

/-- V152. -/
theorem test_shl64_by_half : answer (step (block unseeded 0x200008 0x123456789abcdef 0x0)) = some (.ok 0x89ABCDEF00000000 0) := by decide

/-- V155. -/
theorem test_shl64_by_width : answer (step (block unseeded 0x400008 0x123456789abcdef 0x0)) = some (.ok 0 0) := by decide

/-- V162. -/
theorem test_shl128 : answer (step (block unseeded 0x410108 0x123456789abcdeffedcba9876543210 0x0)) = some (.ok 0xFDB97530ECA864200000000000000000 0) := by decide

/-- V170. -/
theorem test_shr64 : answer (step (block unseeded 0x210009 0x123456789abcdef 0x0)) = some (.ok 0x91A2B3 0) := by decide

/-- V174. -/
theorem test_shr64_by_last : answer (step (block unseeded 0x3f0009 0x8000000000000000 0x0)) = some (.ok 1 0) := by decide

/-- V178. -/
theorem test_shr128 : answer (step (block unseeded 0x3f0109 0x123456789abcdeffedcba9876543210 0x0)) = some (.ok 0x02468ACF13579BDF 0) := by decide

/-- V189. -/
theorem test_eq64_ignores_upper_bits : answer (step (block unseeded 0xa 0x10000000000000005 0x5)) = some (.ok 1 0) := by decide

/-- V190. -/
theorem test_eq128 : answer (step (block unseeded 0x10a 0x10000000000000005 0x5)) = some (.ok 0 0) := by decide

/-- V192. -/
theorem test_lt64 : answer (step (block unseeded 0xb 0xffffffff 0x100000000)) = some (.ok 1 0) := by decide

/-- V195. -/
theorem test_lt64_is_unsigned : answer (step (block unseeded 0xb 0x8000000000000000 0x1)) = some (.ok 0 0) := by decide

/-- V199. -/
theorem test_lt128 : answer (step (block unseeded 0x10b 0x50000000000000001 0x50000000000000002)) = some (.ok 1 0) := by decide

/-- V201. -/
theorem test_trunc64 : answer (step (block unseeded 0x10000c 0x123456789abcdef 0x0)) = some (.ok 0xCDEF 0) := by decide

/-- V92. -/
theorem test_trunc64_same_width_is_illegal : answer (step (block unseeded 0x40000c 0x123456789abcdef 0x0)) = some (.fault .illegalCmd) := by decide

/-- V206. -/
theorem test_trunc128 : answer (step (block unseeded 0x40010c 0x123456789abcdeffedcba9876543210 0x0)) = some (.ok 0xFEDCBA9876543210 0) := by decide

/-- V207. -/
theorem test_mul64 : answer (step (block unseeded 0x10 0x5851f42d4c957f2d 0x6d)) = some (.ok 0x9AE4F7499BA72629 0) := by decide

/-- V227. -/
theorem test_mul128 : answer (step (block unseeded 0x110 0x123456789abcdeffedcba9876543210 0xfedcba98765432100123456789abcdef)) = some (.ok 0xBCB448E0E2B4BD632236D88FE5618CF0 0) := by decide

/-- V216. -/
theorem test_mulw64 : answer (step (block unseeded 0x11 0x5851f42d4c957f2d 0x6d)) = some (.ok 0x259AE4F7499BA72629 0) := by decide

/-- V232. -/
theorem test_mulw128 : answer (step (block unseeded 0x111 0x123456789abcdeffedcba9876543210 0xfedcba98765432100123456789abcdef)) = some (.ok 0xBCB448E0E2B4BD632236D88FE5618CF0 0x0121FA00AD77D7431FF2E48E8A71DE69) := by decide

/-- V237. -/
theorem test_divrem64 : answer (step (block unseeded 0x18 0xfffffffffffffffa 0x6)) = some (.ok 0x2AAAAAAAAAAAAAA9 4) := by decide

/-- V255. -/
theorem test_divrem64_by_truncated_zero : answer (step (block unseeded 0x18 0x5 0x10000000000000000)) = some (.fault .divZero) := by decide

/-- V260. -/
theorem test_divrem128 : answer (step (block unseeded 0x118 0x123456789abcdeffedcba9876543210 0xfedcba9876543211)) = some (.ok 0x0124924924924924 0x7D11B781DE844EAC) := by decide

/-- V274. -/
theorem test_divrem128_by_zero : answer (step (block unseeded 0x118 0x0 0x0)) = some (.fault .divZero) := by decide

/-- V77. -/
theorem test_illegal_zero_word : answer (step (block unseeded 0x0 0x0 0x0)) = some (.fault .illegalCmd) := by decide

/-- V80. -/
theorem test_illegal_reserved_bit : answer (step (block unseeded 0x1000001 0x0 0x0)) = some (.fault .illegalCmd) := by decide

/-- V88. -/
theorem test_illegal_stray_immediate : answer (step (block unseeded 0x10001 0x0 0x0)) = some (.fault .illegalCmd) := by decide

/-- V3. -/
theorem test_seed32 :
    answer (step (block unseeded 0x20 0x2a 0x36)) = some (.ok 0 0) ∧
    (engines (step (block unseeded 0x20 0x2a 0x36))).bind (·.e32) = some { state := 0x185706B82C2E03F8, inc := 0x6D } := by decide

/-- V26. -/
theorem test_seed32_drops_top_bit :
    answer (step (block seeded 0x20 0x2a 0x8000000000000036)) = some (.ok 0 0) ∧
    (engines (step (block seeded 0x20 0x2a 0x8000000000000036))).bind (·.e32) = some { state := 0x185706B82C2E03F8, inc := 0x6D } := by decide

/-- V31. -/
theorem test_seed64 :
    answer (step (block unseeded 0x120 0x2a 0x36)) = some (.ok 0 0) ∧
    (engines (step (block unseeded 0x120 0x2a 0x36))).bind (·.e64) = some { state := 0xDE2BCE05BE013BE3D3F6C45A41E54320, inc := 0x6D } := by decide

/-- V1, V4. -/
theorem test_next32 :
    answer (step (block seeded 0x21 0x0 0x0)) = some (.ok 0xA15C02B7 0) ∧
    (engines (step (block seeded 0x21 0x0 0x0))).bind (·.e32) = some { state := 0x2B47FED88766BB05, inc := 0x6D } := by decide

/-- V97. -/
theorem test_next32_unseeded :
    answer (step (block unseeded 0x21 0x0 0x0)) = some (.fault .notSeeded) := by decide

/-- V32. -/
theorem test_next64 :
    answer (step (block seeded 0x121 0x0 0x0)) = some (.ok 0x86B1DA1D72062B68 0) ∧
    (engines (step (block seeded 0x121 0x0 0x0))).bind (·.e64) = some { state := 0x10AF065F4EA96E857BB2A7886ECBD80D, inc := 0x6D } := by decide

/-- V106. -/
theorem test_next64_unseeded :
    answer (step (block unseeded 0x121 0x0 0x0)) = some (.fault .notSeeded) := by decide

/-- V14. -/
theorem test_bnext32_rejects_a_draw :
    answer (step (block afterNext 0x22 0x80000001 0x0)) = some (.ok 0x3A1D332F 0) ∧
    (engines (step (block afterNext 0x22 0x80000001 0x0))).bind (·.e32) = some { state := 0xF7079824C154BF23, inc := 0x6D } := by decide

/-- V100. -/
theorem test_bnext32_unseeded_zero_bound :
    answer (step (block unseeded 0x22 0x0 0x0)) = some (.fault .notSeeded) := by decide

/-- V42. -/
theorem test_bnext64_rejects_a_draw :
    answer (step (block afterNext 0x122 0x8000000000000001 0x0)) = some (.ok 0x23670E9E0DD50357 0) ∧
    (engines (step (block afterNext 0x122 0x8000000000000001 0x0))).bind (·.e64) = some { state := 0xC17F1C9974CFDC46C227BFFE7A51D193, inc := 0x6D } := by decide

/-- V49. -/
theorem test_bnext64_truncated_zero_bound :
    answer (step (block seeded 0x122 0x10000000000000000 0x0)) = some (.fault .divZero) ∧
    (engines (step (block seeded 0x122 0x10000000000000000 0x0))).bind (·.e64) = some { state := 0xDE2BCE05BE013BE3D3F6C45A41E54320, inc := 0x6D } := by decide

/-- V59. -/
theorem test_advance32 :
    answer (step (block seeded 0x23 0x5 0x0)) = some (.ok 0 0) ∧
    (engines (step (block seeded 0x23 0x5 0x0))).bind (·.e32) = some { state := 0x8303569FBE80C471, inc := 0x6D } := by decide

/-- V63. -/
theorem test_advance32_back :
    answer (step (block seeded 0x23 0xffffffffffffffff 0x0)) = some (.ok 0 0) ∧
    (engines (step (block seeded 0x23 0xffffffffffffffff 0x0))).bind (·.e32) = some { state := 0x97, inc := 0x6D } := by decide +kernel

/-- V69. -/
theorem test_advance64 :
    answer (step (block seeded 0x123 0x5 0x0)) = some (.ok 0 0) ∧
    (engines (step (block seeded 0x123 0x5 0x0))).bind (·.e64) = some { state := 0x6F0DD9B4E47FDA57AEB112CD823D06A9, inc := 0x6D } := by decide

/-- A bounded draw that can never succeed (R207 read at an increment that no reachable state has): from the state 0
with the increment 0 every draw is 0, the bound 6 has the threshold 4, and the command has no result. -/
theorem test_endless_draw_stops (s : State) (rest : List Input) (h : s.inputs = .command (req 0x22 6 0) :: rest)
    (he : s.core.e32 = some { state := 0, inc := 0 }) : step s = .fault .drawNeverAccepted := by
  have hd : decode (req 0x22 6 0).cmd = .ok .bnext32 := by decide
  have hb : opA 32 (req 0x22 6 0) ≠ 0 := by decide
  have hlt : output32 0 < threshold32 (opA 32 (req 0x22 6 0)) := by decide
  have hst : ∀ j, stateAfter (next32 · 0) j 0 = 0 := fun j => by
    induction j with
    | zero => rfl
    | succ j ih => rw [stateAfter_succ, ih]; decide
  have hn := bnext32_of_rejected s.core (e := { state := 0, inc := 0 }) hb
    (drawWithin_rejected _ _ _ _ fun j _ => by rw [drawNumber, hst]; exact hlt)
  have hf : fetch s = .run .bnext32 := fetch_of_legal h hd
  simp only [step, hf, exec, execBnext32, runEngine32_of_seeded he _ h, runCommand_of_command h, hn,
    State.settle_endless]

/-- V106: the engines are seeded apart. -/
theorem test_seed32_leaves_engine64 :
    (engines (step (block unseeded 0x20 42 54))).map (·.e64) = some none := by decide

/-- R340: RESET clears both engines and answers nothing. -/
theorem test_reset_input :
    step { core := seeded, inputs := [.reset], responses := [] } =
      .next { core := unseeded, inputs := [], responses := [] } := rfl

/-- R340: a request that RESET abandons has no response. -/
theorem test_abandoned_request :
    step { core := seeded, inputs := [.abandoned (req 0x21 0 0), .command (req 0x21 0 0)], responses := [] } =
      .next { core := unseeded, inputs := [.command (req 0x21 0 0)], responses := [] } := rfl

/-- The first instruction after reset, as the host presents it (V97). -/
theorem test_withFetchWord :
    answer (step (State.reset.withFetchWord 32 0x21)) = some (.fault .notSeeded) ∧
    decodeTableWord 32 0x21 = some .next32 ∧ decodeTableWord 32 0x0018000C = none := by decide

/-! ## The reference realisations -/

/-- V237. -/
theorem test_bisection : bisectDivremN (n := 64) 0xFFFFFFFFFFFFFFFA 6 = some (0x2AAAAAAAAAAAAAA9, 4) := by decide +kernel

/-- V235. -/
theorem test_schoolbook :
    limbMulw (k := 32) { high := 0x9E3779B9, low := 0x7F4A7C15 } { high := 0xC2B2AE3D, low := 0x27D4EB4F } =
      0x78547880B6031473F58D71AE9C47917B := by decide

/-- V152, in limbs. -/
theorem test_limb_shift :
    (limbShl (h := 32) { high := 0x01234567, low := 0x89ABCDEF } 32).value = 0x89ABCDEF00000000 := by decide

/-- R80: GE64 of 5 and 5 answers 1. -/
theorem test_pseudo_ge :
    ((runLines ((Pseudo.ge .narrow (.literal 5) (.literal 5)).expand 7) (State.reset, [])).bind
      fun x => resultsOf x.2 7) = some (1, 0) := by decide

/-! ## A state and operands that meet the hypotheses of each statement, at each clause -/

theorem witness_AddAnswersSumModuloWidth :
    (block unseeded 0x1 0xFFFFFFFFFFFFFFFF 1).inputs = .command (req 0x1 0xFFFFFFFFFFFFFFFF 1) :: [] := rfl
theorem witness_SubAnswersDifferenceModuloWidth :
    (block unseeded 0x2 0 1).inputs = .command (req 0x2 0 1) :: [] := rfl
theorem witness_NegAnswersTwosComplement :
    (block unseeded 0x3 0 0).inputs = .command (req 0x3 0 0) :: [] := rfl
theorem witness_BitwiseActsBitByBit :
    (block seeded 0x4 0xFF00 0x0FF0).inputs = .command (req 0x4 0xFF00 0x0FF0) :: [] := rfl
theorem witness_NotComplementsAtItsWidth :
    (block unseeded 0x7 0xFFFFFFFF 0).inputs = .command (req 0x7 0xFFFFFFFF 0) :: [] := rfl
theorem witness_ShlMultipliesByPowerOfTwo :
    (block unseeded 0x400008 1 0).inputs = .command (req 0x400008 1 0) :: [] := rfl
theorem witness_ShrDividesByPowerOfTwo :
    (block unseeded 0x3F0009 (2 ^ 63) 0).inputs = .command (req 0x3F0009 (2 ^ 63) 0) :: [] := rfl
theorem witness_CompareAnswersOneBit :
    (block unseeded 0xB 0xFFFFFFFF 0x100000000).inputs = .command (req 0xB 0xFFFFFFFF 0x100000000) :: [] := rfl

/-- Both clauses of both widths: the largest width of each cast, and the width that is no longer narrower. -/
theorem witness_TruncKeepsLowBits :
    (block unseeded 0x20000C 5 0).inputs = .command (req 0x20000C 5 0) :: [] ∧ 32#8 ∈ [8#8, 16#8, 32#8] ∧
    64#8 ∈ [8#8, 16#8, 32#8, 64#8] ∧ 64#8 ∉ [8#8, 16#8, 32#8] ∧
    (req 0x40000C 5 0).cmd = BitVec.ofNat 32 ((64#8).toNat * 0x10000 + 0x0C) ∧
    128#8 ∉ [8#8, 16#8, 32#8, 64#8] ∧
    (req 0x80010C 5 0).cmd = BitVec.ofNat 32 ((128#8).toNat * 0x10000 + 0x10C) := by decide

theorem witness_MulAnswersProductModuloWidth :
    (block unseeded 0x10 (2 ^ 32) (2 ^ 32)).inputs = .command (req 0x10 (2 ^ 32) (2 ^ 32)) :: [] := rfl
theorem witness_MulwAnswersExactProduct :
    (block unseeded 0x111 (2 ^ 127) 4).inputs = .command (req 0x111 (2 ^ 127) 4) :: [] := rfl

/-- Both clauses of both widths: a divisor that is zero at 64 bits only, at 128 bits too, and the smallest divisor. -/
theorem witness_DivremAnswersQuotientAndRemainder :
    (block unseeded 0x18 5 0x10000000000000000).inputs = .command (req 0x18 5 0x10000000000000000) :: [] ∧
    (req 0x18 5 0x10000000000000000).opb.toNat % 2 ^ 64 = 0 ∧ (req 0x118 5 0x10000000000000000).opb.toNat ≠ 0 ∧
    (req 0x18 5 1).opb.toNat % 2 ^ 64 ≠ 0 ∧ (req 0x118 5 0).opb.toNat = 0 := by decide

theorem witness_Seed32OverwritesEngine :
    (block unseeded 0x20 42 54).inputs = .command (req 0x20 42 54) :: [] ∧
    0x6D = (2 * ((req 0x20 42 54).opb.toNat % 2 ^ 64) + 1) % 2 ^ 64 := by decide
theorem witness_Seed64OverwritesEngine :
    (block unseeded 0x120 42 54).inputs = .command (req 0x120 42 54) :: [] ∧
    0x6D = (2 * (req 0x120 42 54).opb.toNat + 1) % 2 ^ 128 := by decide
theorem witness_Next32OutputsPreStepState :
    (block seeded 0x21 0 0).inputs = .command (req 0x21 0 0) :: [] ∧ unseeded.e32 = none ∧
    seeded.e32 = some { state := 0x185706B82C2E03F8, inc := 0x6D } := by decide
theorem witness_Next64OutputsPostStepState :
    (block seeded 0x121 0 0).inputs = .command (req 0x121 0 0) :: [] ∧ unseeded.e64 = none ∧
    seeded.e64 = some { state := 0xDE2BCE05BE013BE3D3F6C45A41E54320, inc := 0x6D } ∧
    0x10AF065F4EA96E857BB2A7886ECBD80D#128 =
      BitVec.ofNat 128 (0xDE2BCE05BE013BE3D3F6C45A41E54320 * 47026247687942121848144207491837523525 + 0x6D) := by
  decide

/-- Each clause: unseeded; a bound that is zero at 32 bits; one draw rejected and the next accepted (V14); the largest
bound, with the first draw accepted (V17). -/
theorem witness_Bnext32AnswersFirstAcceptedDraw :
    (block afterNext 0x22 0x80000001 0).inputs = .command (req 0x22 0x80000001 0) :: [] ∧ unseeded.e32 = none ∧
    afterNext.e32 = some { state := 0x2B47FED88766BB05, inc := 0x6D } ∧
    0 = (req 0x22 0x100000000 0).opa.toNat % 2 ^ 32 ∧ 0x80000001 = (req 0x22 0x80000001 0).opa.toNat % 2 ^ 32 ∧
    (∀ j, j < 1 → (output32 ((fun x => step32 x 0x6D)^[j] 0x2B47FED88766BB05)).toNat < 2 ^ 32 % 0x80000001) ∧
    2 ^ 32 % 0x80000001 ≤ (output32 ((fun x => step32 x 0x6D)^[1] 0x2B47FED88766BB05)).toNat ∧
    2 ^ 32 % 0xFFFFFFFF ≤ (output32 ((fun x => step32 x 0x6D)^[0] 0x2B47FED88766BB05)).toNat := by decide

/-- Each clause, as for Engine-32 (V42, V46). -/
theorem witness_Bnext64AnswersFirstAcceptedDraw :
    (block afterNext 0x122 0x8000000000000001 0).inputs = .command (req 0x122 0x8000000000000001 0) :: [] ∧
    unseeded.e64 = none ∧ afterNext.e64 = some { state := 0x10AF065F4EA96E857BB2A7886ECBD80D, inc := 0x6D } ∧
    0 = (req 0x122 0x10000000000000000 0).opa.toNat % 2 ^ 64 ∧
    0x8000000000000001 = (req 0x122 0x8000000000000001 0).opa.toNat % 2 ^ 64 ∧
    (∀ j, j < 1 → (output64 ((fun x => step64 x 0x6D)^[j + 1] 0x10AF065F4EA96E857BB2A7886ECBD80D)).toNat <
      2 ^ 64 % 0x8000000000000001) ∧
    2 ^ 64 % 0x8000000000000001 ≤
      (output64 ((fun x => step64 x 0x6D)^[1 + 1] 0x10AF065F4EA96E857BB2A7886ECBD80D)).toNat ∧
    2 ^ 64 % 0xFFFFFFFFFFFFFFFF ≤
      (output64 ((fun x => step64 x 0x6D)^[0 + 1] 0x10AF065F4EA96E857BB2A7886ECBD80D)).toNat := by decide

theorem witness_Bnext32AlwaysCompletes :
    (block seeded 0x22 1 0).inputs = .command (req 0x22 1 0) :: [] ∧
    seeded.e32 = some { state := 0x185706B82C2E03F8, inc := 0x6D } ∧ (0x6D#64).getLsbD 0 = true ∧
    (req 0x22 1 0).opa.toNat % 2 ^ 32 ≠ 0 ∧ (req 0x22 0xFFFFFFFF 0).opa.toNat % 2 ^ 32 ≠ 0 := by decide
theorem witness_Bnext64AlwaysCompletes :
    (block seeded 0x122 1 0).inputs = .command (req 0x122 1 0) :: [] ∧
    seeded.e64 = some { state := 0xDE2BCE05BE013BE3D3F6C45A41E54320, inc := 0x6D } ∧
    (0x6D#128).getLsbD 0 = true ∧ (req 0x122 1 0).opa.toNat % 2 ^ 64 ≠ 0 ∧
    (req 0x122 0xFFFFFFFFFFFFFFFF 0).opa.toNat % 2 ^ 64 ≠ 0 := by decide

/-- Both engines, and for Engine-32 a state where both sides of the equivalence hold (`test_endless_draw_stops`). -/
theorem witness_BoundedDrawStopsOnlyIfEndless :
    (block { e32 := some { state := 0, inc := 0 }, e64 := none } 0x22 6 0).inputs = .command (req 0x22 6 0) :: [] ∧
    (req 0x22 6 0).opa.toNat % 2 ^ 32 ≠ 0 ∧
    seeded.e64 = some { state := 0xDE2BCE05BE013BE3D3F6C45A41E54320, inc := 0x6D } ∧
    (req 0x122 6 0).opa.toNat % 2 ^ 64 ≠ 0 := by decide

theorem witness_ThresholdIsPowerModBound : (1#32 ≠ 0) ∧ (0xFFFFFFFF#32 ≠ 0) ∧ (1#64 ≠ 0) := by decide
theorem witness_AcceptedDrawsAreUniform :
    0 < (1#32).toNat ∧ 5 < (6#32).toNat ∧ threshold64 6 = some 4 ∧ 5 < (6#64).toNat := by decide
theorem witness_RotateRightMovesBits : 0 < 32 ∧ 31 < 32 ∧ 0 < 64 ∧ 63 < 64 := by decide
theorem witness_AdvanceMovesEngineByDelta :
    (block seeded 0x23 5 0).inputs = .command (req 0x23 5 0) :: [] ∧ unseeded.e32 = none ∧ unseeded.e64 = none ∧
    seeded.e32 = some { state := 0x185706B82C2E03F8, inc := 0x6D } ∧
    seeded.e64 = some { state := 0xDE2BCE05BE013BE3D3F6C45A41E54320, inc := 0x6D } := by decide
theorem witness_AdvanceThenNextEqualsNexts : seeded.e32 ≠ none ∧ seeded.e64 ≠ none := by decide
theorem witness_OddIncrementGivesFullPeriod :
    (1#64).getLsbD 0 = true ∧ (1#128).getLsbD 0 = true ∧ 0 < 2 ^ 64 - 1 ∧ 2 ^ 64 - 1 < 2 ^ 64 := by decide
theorem witness_AdvanceRewinds : (0x6D#64).getLsbD 0 = true ∧ (0x6D#128).getLsbD 0 = true := by decide
theorem witness_DecodeOfEncodeIsIdentity : Instr.add64.WellFormed ∧ (Instr.trunc128 64).WellFormed := by decide
theorem witness_EncodeOfDecodeIsIdentity :
    decode 0x00FF0109 = .ok (.shr128 255) ∧ decode 0x0040010C = .ok (.trunc128 64) := by decide

/-- Each of the five conditions, at a boundary, and a request with an illegal word. -/
theorem witness_IllegalWordsAreExactlyR76 :
    (0x0E = 0x0000000E % 2 ^ 8 ∧ 0 = 0x0000000E / 2 ^ 8 % 2 ∧ 0 = 0x0000000E / 2 ^ 9 % 2 ^ 7 ∧
      0 = 0x0000000E / 2 ^ 16 % 2 ^ 8 ∧ 0 = 0x0000000E / 2 ^ 24) ∧
    decode 0x00008001 = .error .reservedBits ∧ decode 0x01000001 = .error .reservedBits ∧
    decode 0x00000024 = .error .unassignedOpcode ∧ decode 0x00010001 = .error .strayImmediate ∧
    decode 0x0040000C = .error .castWidth ∧ decode 0x0080010C = .error .castWidth ∧
    (block unseeded 0x24 0 0).inputs = .command (req 0x24 0 0) :: [] ∧ (req 0x24 0 0).cmd = 0x24 := by decide

theorem witness_StepRunsDecodedInstruction :
    (block seeded 0x21 0 0).inputs = .command (req 0x21 0 0) :: [] ∧ decode (req 0x21 0 0).cmd = .ok .next32 := by decide
theorem witness_ResetInputUnseedsBothEngines :
    ({ core := seeded, inputs := [.reset], responses := [] } : State).inputs = .reset :: [] ∧
    ({ core := seeded, inputs := [.abandoned (req 0x21 0 0)], responses := [] } : State).inputs =
      .abandoned (req 0x21 0 0) :: [] ∧ State.reset.inputs = [] := by decide

/-- Every clause: an illegal word; NEXT, BNEXT with a zero bound and ADVANCE on unseeded engines; a zero bound on
seeded ones; a zero divisor. -/
theorem witness_FaultPriorityIsR308 :
    (block unseeded 0x00010022 0 0).inputs = .command (req 0x00010022 0 0) :: [] ∧
    decode (req 0x00010022 0 0).cmd = .error .strayImmediate ∧
    decode (req 0x22 0 0).cmd = .ok .bnext32 ∧ unseeded.e32 = none ∧ seeded.e32 ≠ none ∧
    (req 0x22 0 0).opa.toNat % 2 ^ 32 = 0 ∧ decode (req 0x122 0 0).cmd = .ok .bnext64 ∧ unseeded.e64 = none ∧
    seeded.e64 ≠ none ∧ (req 0x122 0x10000000000000000 0).opa.toNat % 2 ^ 64 = 0 ∧
    decode (req 0x18 5 0).cmd = .ok .divrem64 ∧ (req 0x18 5 0x10000000000000000).opb.toNat % 2 ^ 64 = 0 ∧
    decode (req 0x118 5 0).cmd = .ok .divrem128 ∧ (req 0x118 5 0).opb = 0 := by decide

/-- One response of each fault a decoded instruction can answer. -/
theorem witness_OnlyListedCommandsFault :
    Instr.divrem64.WellFormed ∧ Instr.next32.WellFormed ∧
    exec .divrem64 (block unseeded 0x18 5 0) =
      .next { core := unseeded, inputs := [], responses := [] ++ [.fault .divZero] } ∧
    exec .next32 (block unseeded 0x21 0 0) =
      .next { core := unseeded, inputs := [], responses := [] ++ [.fault .notSeeded] } :=
  ⟨by decide, by decide, rfl, rfl⟩

theorem witness_FaultWritesNoState :
    step (block seeded 0x18 5 0) =
      .next { core := seeded, inputs := [], responses := [] ++ [.fault .divZero] } := rfl
theorem witness_FaultsAreNotSticky :
    exec .next32 { core := seeded, inputs := [.command (req 0x21 0 0)], responses := [] } =
      .next { core := { seeded with e32 := some { state := 0x2B47FED88766BB05, inc := 0x6D } }, inputs := [],
              responses := [.ok 0xA15C02B7 0] } := rfl
theorem witness_OnlyEngineCommandsWriteEngine :
    exec .add64 (block seeded 0x1 1 1) = .next { core := seeded, inputs := [], responses := [.ok 2 0] } ∧
    Instr.add64 ∉ engine32Commands ∧ Instr.add64 ∉ engine64Commands := ⟨rfl, by decide, by decide⟩
theorem witness_OnlySeedWritesIncrement :
    exec .advance32 (block seeded 0x23 0 0) = .next { core := seeded, inputs := [], responses := [.ok 0 0] } ∧
    Instr.advance32 ≠ .seed32 ∧ Instr.advance32 ≠ .seed64 ∧ seeded.seeded32 = true ∧ seeded.seeded64 = true :=
  ⟨rfl, by decide, by decide, by decide, by decide⟩

/-- NEXT32 and NEXT64, in both orders. -/
theorem witness_CommandsOfDifferentEnginesCommute :
    Instr.next32 ∉ engine64Commands ∧ Instr.next64 ∉ engine32Commands ∧
    exec .next32 (fresh seeded (req 0x21 0 0)) =
      .next { core := { seeded with e32 := afterNext.e32 }, inputs := [], responses := [.ok 0xA15C02B7 0] } ∧
    exec .next64 (fresh { seeded with e32 := afterNext.e32 } (req 0x121 0 0)) =
      .next { core := afterNext, inputs := [], responses := [.ok 0x86B1DA1D72062B68 0] } ∧
    exec .next64 (fresh seeded (req 0x121 0 0)) =
      .next { core := { seeded with e64 := afterNext.e64 }, inputs := [], responses := [.ok 0x86B1DA1D72062B68 0] } ∧
    exec .next32 (fresh { seeded with e64 := afterNext.e64 } (req 0x21 0 0)) =
      .next { core := afterNext, inputs := [], responses := [.ok 0xA15C02B7 0] } :=
  ⟨by decide, by decide, rfl, rfl, rfl, rfl⟩

theorem witness_UnusedOperandBitsAreIgnored :
    (req 0x1 0x10000000000000005 3).opa.toNat % 2 ^ (operandWidths .add64).1 =
      (req 0x1 5 3).opa.toNat % 2 ^ (operandWidths .add64).1 ∧
    (req 0x1 0x10000000000000005 3).opb.toNat % 2 ^ (operandWidths .add64).2 =
      (req 0x1 5 3).opb.toNat % 2 ^ (operandWidths .add64).2 := by decide
theorem witness_UnusedResultBitsAreZero :
    exec .not64 (block unseeded 0x7 0 0) =
      .next { core := unseeded, inputs := [], responses := [] ++ [.ok 0xFFFFFFFFFFFFFFFF 0] } := rfl
theorem witness_EachRequestGivesOneResponse :
    exec .lt64 (block unseeded 0xB 1 2) = .next { core := unseeded, inputs := [], responses := [.ok 1 0] } := rfl
theorem witness_EveryStepKeepsIncrementsOdd :
    (block seeded 0x21 0 0).IncOdd ∧ step (block seeded 0x21 0 0) =
      .next { core := { seeded with e32 := afterNext.e32 }, inputs := [], responses := [.ok 0xA15C02B7 0] } :=
  ⟨by decide, rfl⟩
theorem witness_ResetHasOddIncrements : State.reset.core = CoreState.unseeded := rfl
theorem witness_EveryAcceptedCommandAnswers :
    (block seeded 0x22 6 0).IncOdd ∧ (block seeded 0x22 6 0).inputs = .command (req 0x22 6 0) :: [] := by decide
theorem witness_WaitingRequestsAreAllServed :
    State.IncOdd { core := unseeded, inputs := [.command (req 0x20 42 54), .command (req 0x21 0 0)], responses := [] } ∧
    (∀ x ∈ [Input.command (req 0x20 42 54), .command (req 0x21 0 0)], x.isCommand = true) := by decide

/-- The one stop there is, with an even increment (`test_endless_draw_stops`). -/
theorem witness_OnlyEndlessDrawStops :
    step (block { e32 := some { state := 0, inc := 0 }, e64 := none } 0x22 6 0) = .fault .drawNeverAccepted ∧
    ¬ (block { e32 := some { state := 0, inc := 0 }, e64 := none } 0x22 6 0).IncOdd :=
  ⟨test_endless_draw_stops _ [] rfl rfl, by decide⟩

theorem witness_ComparePseudosAnswerTruth :
    5 = valueAt .narrow 0x10000000000000005 ∧ 5 = valueAt .wide 5 ∧
    (Pseudo.ge .narrow (.literal 5) (.literal 5), true) ∈
      [(Pseudo.gt .narrow (.literal 5) (.literal 5), false), (Pseudo.ge .narrow (.literal 5) (.literal 5), true)] := by
  decide

/-- V63, V64 at one step: the state 0x97 is one step before the seeded one. -/
theorem witness_StepAndRewindPseudosMoveEngine :
    (block seeded 0x23 0 0).core.e32 = some { state := (fun x => step32 x 0x6D)^[1] 0x97, inc := 0x6D } ∧
    (0x6D#64).getLsbD 0 = true ∧
    (block seeded 0x123 0 0).core.e64 = some { state := (fun x => step64 x 0x6D)^[1] 0x97, inc := 0x6D } ∧
    (0x6D#128).getLsbD 0 = true := by decide

end Sys2Proof.Tests
end

/-! # The host's command lines (spec/30_encoding.md R79, R80) -/

namespace Sys2Proof.Machine

/-! ## What a host reads and presents -/

section
variable (names : Bindings) (name : Nat)

@[simp] theorem resultsOf_cons_same (res : Port × Port) : resultsOf ((name, res) :: names) name = some res := by
  simp [resultsOf]

/-- The latest line to bind a name is the one the name stands for. -/
theorem value_res0_cons_same (res0 res1 : Port) :
    (LineOperand.res0 name).value ((name, res0, res1) :: names) = some res0 := by
  simp [LineOperand.value]

theorem runLines_cons_of_runLine {line : CommandLine} {at_ next : State × Bindings}
    (h : runLine line at_ = some next) (lines : List CommandLine) :
    runLines (line :: lines) at_ = runLines lines next := by
  rw [runLines, h]

/-- A line with one operand presents that operand on OPA and zero on the port it ignores (R79). -/
theorem line1_request {names : Bindings} {a : LineOperand} {v : Port} (ha : a.value names = some v) (i : Instr) :
    (line1 name i a).request names = some { cmd := encode i, opa := v, opb := 0 } := by
  simp only [CommandLine.request, line1, portValue, ha]
end

/-! ## A line whose command completes -/

section
variable {s : State} {names : Bindings} {core : CoreState} {res0 res1 : Port} {i : Instr}

/-- A line whose command completes with a result adds one response, keeps what waits, and binds its name. -/
theorem runLine_of_effect_done {line : CommandLine} {r : Request} (hr : line.request names = some r)
    (hd : decode r.cmd = .ok i) (he : effect i r s.core = .done core res0 res1) :
    runLine line (s, names) =
      some (s.respond s.inputs core (.ok res0 res1), line.bind names (some (.ok res0 res1))) := by
  have hstep : step { s with inputs := .command r :: s.inputs } =
      .next (s.respond s.inputs core (.ok res0 res1)) := by
    rw [step_of_decode rfl hd, he, State.settle_done]
    rfl
  simp only [runLine, hr, hstep, State.respond_responses, List.getLast?_concat]

/-- `name = MNEMONIC operandA` binds `name` to the command's results on that operand. -/
theorem runLine_line1 {name : Nat} {a : LineOperand} {v : Port} (ha : a.value names = some v)
    (hd : decode (encode i) = .ok i)
    (he : effect i { cmd := encode i, opa := v, opb := 0 } s.core = .done core res0 res1) :
    runLine (line1 name i a) (s, names) =
      some (s.respond s.inputs core (.ok res0 res1), (name, res0, res1) :: names) :=
  runLine_of_effect_done (line1_request name ha i) hd he
end

/-! ## Lines that keep the engines -/

/-- The lines run to completion and bind `name` to `res`; the engines and what waits are as before. -/
def BindsResult (lines : List CommandLine) (s : State) (names : Bindings) (name : Nat) (res : Port × Port) : Prop :=
  ∃ (t : State) (names' : Bindings), runLines lines (s, names) = some (t, names') ∧
    resultsOf names' name = some res ∧ t.core = s.core ∧ t.inputs = s.inputs

section
variable {s : State} {names names' : Bindings} {name : Nat} {res : Port × Port}

theorem BindsResult.nil (h : resultsOf names name = some res) : BindsResult [] s names name res :=
  ⟨s, names, rfl, h, rfl, rfl⟩

/-- One line that writes no engine, and then the rest. -/
theorem BindsResult.cons {line : CommandLine} {lines : List CommandLine} {resp : Response}
    (hline : runLine line (s, names) = some (s.respond s.inputs s.core resp, names'))
    (h : BindsResult lines (s.respond s.inputs s.core resp) names' name res) :
    BindsResult (line :: lines) s names name res := by
  obtain ⟨t, namesEnd, hrun, hres, hcore, hinputs⟩ := h
  exact ⟨t, namesEnd, (runLines_cons_of_runLine hline lines).trans hrun, hres, hcore, hinputs⟩
end

/-! ## The two commands of HI64 and LO64 -/

theorem onPort_truncN {n k : Nat} (hk : k ≤ 128) (v : BitVec n) :
    onPort (truncN k v) = BitVec.ofNat 128 (v.toNat % 2 ^ k) := by
  apply BitVec.eq_of_toNat_eq
  have hlt : v.toNat % 2 ^ k < 2 ^ 128 :=
    (Nat.mod_lt _ (Nat.two_pow_pos k)).trans_le (Nat.pow_le_pow_right (by decide) hk)
  rw [toNat_onPort _ hk, toNat_truncN, BitVec.toNat_ofNat, Nat.mod_eq_of_lt hlt]

theorem onPort_shrN (v : Port) (n : Nat) : onPort (shrN v n) = BitVec.ofNat 128 (v.toNat / 2 ^ n) := by
  apply BitVec.eq_of_toNat_eq
  have hlt : v.toNat / 2 ^ n < 2 ^ 128 := (Nat.div_le_self _ _).trans_lt v.isLt
  rw [onPort_128, shrN_eq, BitVec.toNat_ushiftRight, Nat.shiftRight_eq_div_pow, BitVec.toNat_ofNat,
    Nat.mod_eq_of_lt hlt]

section
variable (r : Request) (core : CoreState)

/-- TRUNC128 to 64 bits answers the low limb of OPA (R146). -/
theorem effect_trunc128_64 :
    effect (.trunc128 64) r core = .done core (BitVec.ofNat 128 (r.opa.toNat % 2 ^ 64)) unusedPort := by
  have hwidth : castWidths128.contains 64 = true := by decide
  rw [effect, if_pos hwidth, oneResult, opA_128]
  exact congrArg (CommandResult.done core · unusedPort) (onPort_truncN (by decide) r.opa)

/-- SHR128 answers OPA divided by a power of two, at every amount (R144). -/
theorem effect_shr128 (n : Imm8) :
    effect (.shr128 n) r core = .done core (BitVec.ofNat 128 (r.opa.toNat / 2 ^ n.toNat)) unusedPort := by
  rw [effect, oneResult, opA_128, onPort_shrN]
end

theorem decode_encode_trunc128_64 : decode (encode (.trunc128 64)) = .ok (.trunc128 64) := by decide

theorem decode_encode_shr128_64 : decode (encode (.shr128 64)) = .ok (.shr128 64) := by decide

/-! ## The two expansions -/

section
variable {s : State} {names : Bindings} {name : Nat} {a : LineOperand} {v : Port}

/-- LO64 runs as its one cast and binds the low limb (R12, R80). -/
theorem bindsResult_lo64 (ha : a.value names = some v) :
    BindsResult ((Pseudo.lo64 a).expand name) s names name (BitVec.ofNat 128 (v.toNat % 2 ^ 64), unusedPort) :=
  .cons (runLine_line1 ha decode_encode_trunc128_64 (effect_trunc128_64 _ _)) (.nil (resultsOf_cons_same _ _ _))

/-- HI64 shifts its operand down by one limb and then runs as LO64 on what that line bound (R80). -/
theorem expand_hi64 (name : Nat) (a : LineOperand) :
    (Pseudo.hi64 a).expand name = line1 name (.shr128 64) a :: (Pseudo.lo64 (.res0 name)).expand name := rfl

/-- HI64 binds the high limb: the shifted value is one limb wide, so the cast keeps it (R12, R80). -/
theorem bindsResult_hi64 (ha : a.value names = some v) :
    BindsResult ((Pseudo.hi64 a).expand name) s names name (BitVec.ofNat 128 (v.toNat / 2 ^ 64), unusedPort) := by
  have hkept : (BitVec.ofNat 128 (v.toNat / 2 ^ 64)).toNat % 2 ^ 64 = v.toNat / 2 ^ 64 := by
    rw [BitVec.toNat_ofNat]; omega
  have hshift := runLine_line1 (s := s) (name := name) ha decode_encode_shr128_64 (effect_shr128 _ _ 64)
  have hcast := bindsResult_lo64 (s := s.respond s.inputs s.core (.ok (BitVec.ofNat 128 (v.toNat / 2 ^ 64)) unusedPort))
    (name := name) (value_res0_cons_same names name (BitVec.ofNat 128 (v.toNat / 2 ^ 64)) unusedPort)
  rw [hkept] at hcast
  exact expand_hi64 name a ▸ .cons hshift hcast
end

/-- Settles O60: each expansion is run line by line; the cast that ends HI64 keeps its operand, which the shift left
below `2 ^ 64`. -/
theorem limbPseudosSplitValue : Obligations.LimbPseudosSplitValue := by
  intro s names name a
  have ha : (LineOperand.literal a).value names = some a := rfl
  obtain ⟨t, names', hrun, hres, hcore, -⟩ := bindsResult_hi64 (s := s) (name := name) ha
  obtain ⟨u, names'', hrun', hres', hcore', -⟩ := bindsResult_lo64 (s := s) (name := name) ha
  exact ⟨⟨t, names', hrun, hres, hcore⟩, u, names'', hrun', hres', hcore'⟩

end Sys2Proof.Machine

/-! # What each command does to the engines (spec/10_state.md) -/

namespace Sys2Proof.Machine

/-! ## What a completed command leaves in one engine -/

/-- What a completed instruction `i` leaves in an engine, given the list of the commands that write the engine and its
SEED: what the engine held; or an odd increment, if `i` is the SEED; or the same increment at another state, if `i`
writes the engine (R23, R28). -/
inductive EngineChange {S : Nat} (writers : List Instr) (seed i : Instr) :
    (before after : Option (EngineState S)) → Prop
  | kept (before) : EngineChange writers seed i before before
  | seeded (before) (e : EngineState S) (hi : i = seed) (hodd : e.inc.getLsbD 0 = true) :
      EngineChange writers seed i before (some e)
  | moved (e : EngineState S) (state : BitVec S) (hi : i ∈ writers) :
      EngineChange writers seed i (some e) (some { e with state := state })

section
variable {S : Nat} {writers : List Instr} {seed i : Instr} {before after : Option (EngineState S)}

theorem EngineChange.eq_of_notMem (h : EngineChange writers seed i before after) (hseed : seed ∈ writers)
    (hi : i ∉ writers) : after = before := by
  cases h with
  | kept => rfl
  | seeded _ e hs => exact absurd (hs ▸ hseed) hi
  | moved e state hm => exact absurd hm hi

theorem EngineChange.map_inc_eq (h : EngineChange writers seed i before after) (hi : i ≠ seed) :
    after.map EngineState.inc = before.map EngineState.inc := by
  cases h with
  | kept => rfl
  | seeded _ e hs => exact absurd hs hi
  | moved => rfl

theorem EngineChange.isSome (h : EngineChange writers seed i before after) (hb : before.isSome = true) :
    after.isSome = true := by
  cases h with
  | kept => exact hb
  | seeded => rfl
  | moved => rfl

theorem EngineChange.inc_odd (h : EngineChange writers seed i before after)
    (hb : ∀ e ∈ before, e.inc.getLsbD 0 = true) : ∀ e ∈ after, e.inc.getLsbD 0 = true := by
  cases h with
  | kept => exact hb
  | seeded _ e _ hodd => simpa using hodd
  | moved e => simpa using hb
end

/-- SEED32 makes its increment odd, whatever the sequence operand (R203). -/
theorem seed32_inc_odd (initState initSeq : BitVec 64) : (seed32 initState initSeq).2.getLsbD 0 = true := by
  simp [seed32, orN]

/-- SEED64 makes its increment odd, whatever the sequence operand (R233). -/
theorem seed64_inc_odd (initState initSeq : BitVec 128) : (seed64 initState initSeq).2.getLsbD 0 = true := by
  simp [seed64, orN]

/-! ## The outcome of a command, and the engine it depends on -/

/-- The engines a command leaves and the response it gives; none for a command that never ends. -/
def CommandResult.outcome (core : CoreState) : CommandResult → Option (CoreState × Response)
  | .done core' res0 res1 => some (core', .ok res0 res1)
  | .raised code => some (core, .fault code)
  | .endless => none

/-- The outcome of an instruction's command. -/
def outcome (i : Instr) (r : Request) (core : CoreState) : Option (CoreState × Response) :=
  (effect i r core).outcome core

/-- An instruction that answers a next state gives its outcome there. -/
theorem exec_outcome {i : Instr} {s t : State} (h : exec i s = .next t) :
    ∃ r rest resp, s.inputs = .command r :: rest ∧ outcome i r s.core = some (t.core, resp) ∧
      t.responses = s.responses ++ [resp] := by
  obtain ⟨r, rest, hin, ⟨core, res0, res1, heff, rfl⟩ | ⟨code, heff, rfl⟩⟩ := exec_next h
  · exact ⟨r, rest, .ok res0 res1, hin, congrArg (CommandResult.outcome s.core) heff, rfl⟩
  · exact ⟨r, rest, .fault code, hin, congrArg (CommandResult.outcome s.core) heff, rfl⟩

/-- A command that needs its engine seeded: on a seeded engine `f` gives the engine's next state and the response. -/
def onSeeded {S : Nat} (f : EngineState S → Option (BitVec S × Response)) :
    Option (EngineState S) → Option (Option (EngineState S) × Response)
  | none => some (none, .fault .notSeeded)
  | some e => (f e).map fun (state, resp) => (some { e with state := state }, resp)

theorem onSeeded_engineChange {S : Nat} {writers : List Instr} {seed i : Instr} (hi : i ∈ writers)
    (f : EngineState S → Option (BitVec S × Response)) (before after : Option (EngineState S)) (resp : Response)
    (h : onSeeded f before = some (after, resp)) : EngineChange writers seed i before after := by
  cases before with
  | none => cases h; exact .kept none
  | some e =>
    obtain ⟨⟨state, resp'⟩, -, heq⟩ := Option.map_eq_some_iff.1 h
    cases heq
    exact .moved e state hi

section
open Sys2Proof.Certificates

/-- What the outcome `f` of the instruction `i` can be, as a function of the engines (R20, R23, R47): one response that
writes no engine; or what `answer` says of one engine alone, with a change of that engine that `i` may make. -/
inductive OutcomeKind (i : Instr) (f : CoreState → Option (CoreState × Response)) : Prop
  | ofRequest (resp : Response) (hf : ∀ core, f core = some (core, resp))
  | ofEngine32 (hi : i ∈ engine32Commands)
      (answer : Option (EngineState 64) → Option (Option (EngineState 64) × Response))
      (hchange : ∀ before after resp, answer before = some (after, resp) →
        EngineChange engine32Commands .seed32 i before after)
      (hf : ∀ core, f core = (answer core.e32).map fun (e, resp) => ({ core with e32 := e }, resp))
  | ofEngine64 (hi : i ∈ engine64Commands)
      (answer : Option (EngineState 128) → Option (Option (EngineState 128) × Response))
      (hchange : ∀ before after resp, answer before = some (after, resp) →
        EngineChange engine64Commands .seed64 i before after)
      (hf : ∀ core, f core = (answer core.e64).map fun (e, resp) => ({ core with e64 := e }, resp))

section
variable {i : Instr} {f : CoreState → Option (CoreState × Response)}

/-- SEED32 writes its engine whatever it held. -/
theorem OutcomeKind.ofSeed32 (e : EngineState 64) (resp : Response) (hodd : e.inc.getLsbD 0 = true)
    (hf : ∀ core, f core = some ({ core with e32 := some e }, resp)) : OutcomeKind .seed32 f :=
  .ofEngine32 (by decide) (fun _ => some (some e, resp)) (fun _ _ _ h => by cases h; exact .seeded _ e rfl hodd) hf

/-- SEED64 writes its engine whatever it held. -/
theorem OutcomeKind.ofSeed64 (e : EngineState 128) (resp : Response) (hodd : e.inc.getLsbD 0 = true)
    (hf : ∀ core, f core = some ({ core with e64 := some e }, resp)) : OutcomeKind .seed64 f :=
  .ofEngine64 (by decide) (fun _ => some (some e, resp)) (fun _ _ _ h => by cases h; exact .seeded _ e rfl hodd) hf

/-- A command that needs Engine-32 seeded. -/
theorem OutcomeKind.ofSeeded32 (hi : i ∈ engine32Commands) (g : EngineState 64 → Option (BitVec 64 × Response))
    (hnone : ∀ e64, f { e32 := none, e64 := e64 } = some ({ e32 := none, e64 := e64 }, .fault .notSeeded))
    (hsome : ∀ e e64, f { e32 := some e, e64 := e64 } =
      (g e).map fun (state, resp) => ({ e32 := some { e with state := state }, e64 := e64 }, resp)) :
    OutcomeKind i f :=
  .ofEngine32 hi (onSeeded g) (onSeeded_engineChange hi g) fun ⟨e32, e64⟩ => by
    cases e32 with
    | none => exact hnone e64
    | some e => simp only [hsome, onSeeded, Option.map_map]; rfl

/-- A command that needs Engine-64 seeded. -/
theorem OutcomeKind.ofSeeded64 (hi : i ∈ engine64Commands) (g : EngineState 128 → Option (BitVec 128 × Response))
    (hnone : ∀ e32, f { e32 := e32, e64 := none } = some ({ e32 := e32, e64 := none }, .fault .notSeeded))
    (hsome : ∀ e e32, f { e32 := e32, e64 := some e } =
      (g e).map fun (state, resp) => ({ e32 := e32, e64 := some { e with state := state } }, resp)) :
    OutcomeKind i f :=
  .ofEngine64 hi (onSeeded g) (onSeeded_engineChange hi g) fun ⟨e32, e64⟩ => by
    cases e64 with
    | none => exact hnone e32
    | some e => simp only [hsome, onSeeded, Option.map_map]; rfl
end

/-- A bounded draw of Engine-32 ends in the same way whatever the other engine holds. -/
theorem exists_bnext32_outcome (bound : BitVec 32) (e : EngineState 64) :
    ∃ out : Option (BitVec 64 × Response), ∀ e64,
      (bnext32 { e32 := some e, e64 := e64 } e bound).outcome { e32 := some e, e64 := e64 } =
        out.map fun (state, resp) => ({ e32 := some { e with state := state }, e64 := e64 }, resp) := by
  by_cases hb : bound = 0
  · exact ⟨some (e.state, .fault .divZero), fun e64 => by rw [hb, bnext32_zero]; rfl⟩
  · cases hd : drawWithin (next32 · e.inc) (threshold32 bound) (Config.drawLevels 64) e.state with
    | accepted p r => exact ⟨some (p, .ok _ _), fun e64 => by rw [bnext32_of_accepted _ hb hd]; rfl⟩
    | rejected p => exact ⟨none, fun e64 => by rw [bnext32_of_rejected _ hb hd]; rfl⟩

/-- A bounded draw of Engine-64 ends in the same way whatever the other engine holds. -/
theorem exists_bnext64_outcome (bound : BitVec 64) (e : EngineState 128) :
    ∃ out : Option (BitVec 128 × Response), ∀ e32,
      (bnext64 { e32 := e32, e64 := some e } e bound).outcome { e32 := e32, e64 := some e } =
        out.map fun (state, resp) => ({ e32 := e32, e64 := some { e with state := state } }, resp) := by
  by_cases hb : bound = 0
  · exact ⟨some (e.state, .fault .divZero), fun e32 => by rw [hb, bnext64_zero]; rfl⟩
  · cases hd : drawWithin (next64 · e.inc) (-bound % bound) (Config.drawLevels 128) e.state with
    | accepted p r => exact ⟨some (p, .ok _ _), fun e32 => by rw [bnext64_of_accepted _ hb hd]; rfl⟩
    | rejected p => exact ⟨none, fun e32 => by rw [bnext64_of_rejected _ hb hd]; rfl⟩

/-- A division answers its quotient and remainder, or a fault, and writes no engine. -/
theorem exists_divisionResult_outcome {n : Nat} (result : Option (BitVec n × BitVec n)) :
    ∃ resp, ∀ core, (divisionResult core result).outcome core = some (core, resp) := by
  cases result with
  | none => exact ⟨.fault .divZero, fun _ => rfl⟩
  | some qr => exact ⟨.ok _ _, fun _ => rfl⟩

/-- A cast answers its value, or a fault, and writes no engine. -/
theorem exists_cast_outcome {k : Nat} (legal : Bool) (v : BitVec k) :
    ∃ resp, ∀ core, (if legal then oneResult core v else .raised .illegalCmd).outcome core = some (core, resp) := by
  cases legal with
  | false => exact ⟨.fault .illegalCmd, fun _ => rfl⟩
  | true => exact ⟨.ok _ _, fun _ => rfl⟩

/-- Every instruction is of one of these kinds: the one case split over all of them. -/
theorem outcomeKind (i : Instr) (r : Request) : OutcomeKind i (outcome i r) := by
  cases i with
  | seed32 => exact .ofSeed32 _ (.ok unusedPort unusedPort) (seed32_inc_odd (opA 64 r) (opB 64 r)) fun _ => rfl
  | seed64 => exact .ofSeed64 _ (.ok unusedPort unusedPort) (seed64_inc_odd (opA 128 r) (opB 128 r)) fun _ => rfl
  | next32 | advance32 => exact .ofSeeded32 (by decide) (fun e => some (_, .ok _ _)) (fun _ => rfl) fun _ _ => rfl
  | next64 | advance64 => exact .ofSeeded64 (by decide) (fun e => some (_, .ok _ _)) (fun _ => rfl) fun _ _ => rfl
  | bnext32 =>
    choose out hout using exists_bnext32_outcome (opA 32 r)
    exact .ofSeeded32 (by decide) out (fun _ => rfl) hout
  | bnext64 =>
    choose out hout using exists_bnext64_outcome (opA 64 r)
    exact .ofSeeded64 (by decide) out (fun _ => rfl) hout
  | divrem64 =>
    obtain ⟨resp, hresp⟩ := exists_divisionResult_outcome (divremN (opA 64 r) (opB 64 r))
    exact .ofRequest resp hresp
  | divrem128 =>
    obtain ⟨resp, hresp⟩ := exists_divisionResult_outcome (divremN (opA 128 r) (opB 128 r))
    exact .ofRequest resp hresp
  | trunc64 k =>
    obtain ⟨resp, hresp⟩ := exists_cast_outcome (castWidths64.contains k) (truncN k.toNat (opA 64 r))
    exact .ofRequest resp hresp
  | trunc128 k =>
    obtain ⟨resp, hresp⟩ := exists_cast_outcome (castWidths128.contains k) (truncN k.toNat (opA 128 r))
    exact .ofRequest resp hresp
  | _ => exact .ofRequest (.ok _ _) fun _ => rfl

/-- What an instruction that completes does to each engine. -/
abbrev EnginesChange (i : Instr) (before after : CoreState) : Prop :=
  EngineChange engine32Commands .seed32 i before.e32 after.e32 ∧
    EngineChange engine64Commands .seed64 i before.e64 after.e64

section
variable {i j : Instr} {r q : Request} {core core' : CoreState} {resp : Response}

theorem outcome_enginesChange (h : outcome i r core = some (core', resp)) : EnginesChange i core core' := by
  cases outcomeKind i r with
  | ofRequest resp' hf =>
    cases (hf core).symm.trans h
    exact ⟨.kept _, .kept _⟩
  | ofEngine32 hi answer hchange hf =>
    obtain ⟨⟨e, resp'⟩, hanswer, heq⟩ := Option.map_eq_some_iff.1 ((hf core).symm.trans h)
    cases heq
    exact ⟨hchange _ _ _ hanswer, .kept _⟩
  | ofEngine64 hi answer hchange hf =>
    obtain ⟨⟨e, resp'⟩, hanswer, heq⟩ := Option.map_eq_some_iff.1 ((hf core).symm.trans h)
    cases heq
    exact ⟨.kept _, hchange _ _ _ hanswer⟩

/-- A command that does not write Engine-64 does not read it, and leaves there what it finds. -/
theorem outcome_with_e64 (hi : i ∉ engine64Commands) (h : outcome i r core = some (core', resp))
    (x : Option (EngineState 128)) :
    outcome i r { core with e64 := x } = some ({ core' with e64 := x }, resp) := by
  cases outcomeKind i r with
  | ofRequest resp' hf =>
    cases (hf core).symm.trans h
    exact hf _
  | ofEngine32 _ answer _ hf =>
    obtain ⟨⟨e, resp'⟩, hanswer, heq⟩ := Option.map_eq_some_iff.1 ((hf core).symm.trans h)
    cases heq
    simp only [hf, hanswer, Option.map_some]
  | ofEngine64 hwrites => exact absurd hwrites hi

/-- A command that does not write Engine-32 does not read it, and leaves there what it finds. -/
theorem outcome_with_e32 (hi : i ∉ engine32Commands) (h : outcome i r core = some (core', resp))
    (x : Option (EngineState 64)) :
    outcome i r { core with e32 := x } = some ({ core' with e32 := x }, resp) := by
  cases outcomeKind i r with
  | ofRequest resp' hf =>
    cases (hf core).symm.trans h
    exact hf _
  | ofEngine32 hwrites => exact absurd hwrites hi
  | ofEngine64 _ answer _ hf =>
    obtain ⟨⟨e, resp'⟩, hanswer, heq⟩ := Option.map_eq_some_iff.1 ((hf core).symm.trans h)
    cases heq
    simp only [hf, hanswer, Option.map_some]

/-- Two commands that write no common engine, from the same engines: each gives the same response after the other, and
both orders leave what the first left in Engine-32 and what the second left in Engine-64. -/
theorem outcome_diamond {coreI coreJ : CoreState} {respI respJ : Response} (hi : i ∉ engine64Commands)
    (hj : j ∉ engine32Commands) (hI : outcome i r core = some (coreI, respI))
    (hJ : outcome j q core = some (coreJ, respJ)) :
    outcome j q coreI = some ({ e32 := coreI.e32, e64 := coreJ.e64 }, respJ) ∧
      outcome i r coreJ = some ({ e32 := coreI.e32, e64 := coreJ.e64 }, respI) := by
  have keptI : coreI = { core with e32 := coreI.e32 } :=
    congrArg (CoreState.mk coreI.e32) ((outcome_enginesChange hI).2.eq_of_notMem (by decide) hi)
  have keptJ : coreJ = { core with e64 := coreJ.e64 } :=
    congrArg (CoreState.mk · coreJ.e64) ((outcome_enginesChange hJ).1.eq_of_notMem (by decide) hj)
  exact ⟨keptI ▸ outcome_with_e32 hj hJ coreI.e32, keptJ ▸ outcome_with_e64 hi hI coreJ.e64⟩
end

/-- The outcome of a command that completes from a state with that one request. -/
theorem exec_fresh_outcome {i : Instr} {core : CoreState} {r : Request} {t : State}
    (h : exec i (fresh core r) = .next t) : ∃ resp, outcome i r core = some (t.core, resp) ∧ t.responses = [resp] := by
  obtain ⟨r', rest, resp, hin, hout, hresp⟩ := exec_outcome h
  cases hin
  exact ⟨resp, hout, hresp⟩

/-- All that an instruction can do to the engines when it answers a next state. -/
theorem exec_enginesChange {i : Instr} {s t : State} (h : exec i s = .next t) : EnginesChange i s.core t.core := by
  obtain ⟨r, rest, resp, -, hout, -⟩ := exec_outcome h
  exact outcome_enginesChange hout

/-- Settles O47: of the changes an engine can see, only the first is left to a command that does not write it. -/
theorem onlyEngineCommandsWriteEngine : Obligations.OnlyEngineCommandsWriteEngine := by
  intro i s t h
  obtain ⟨h32, h64⟩ := exec_enginesChange h
  exact ⟨h32.eq_of_notMem (by decide), h64.eq_of_notMem (by decide)⟩

/-- Settles O48: a move of an engine keeps its increment, and every change of a seeded engine leaves it seeded. -/
theorem onlySeedWritesIncrement : Obligations.OnlySeedWritesIncrement := by
  intro i s t h
  obtain ⟨h32, h64⟩ := exec_enginesChange h
  exact ⟨h32.map_inc_eq, h64.map_inc_eq, h32.isSome, h64.isSome⟩
/-- Settles O49: both orders are the two sides of the diamond that the commands make from the engines they start from. -/
theorem commandsOfDifferentEnginesCommute : Obligations.CommandsOfDifferentEnginesCommute := by
  intro i j core r q t1 t2 u1 u2 hi hj ht1 ht2 hu1 hu2
  obtain ⟨respI, hI, hrespI⟩ := exec_fresh_outcome ht1
  obtain ⟨_, hIJ, hrespJ'⟩ := exec_fresh_outcome ht2
  obtain ⟨respJ, hJ, hrespJ⟩ := exec_fresh_outcome hu1
  obtain ⟨_, hJI, hrespI'⟩ := exec_fresh_outcome hu2
  obtain ⟨hIJ', hJI'⟩ := outcome_diamond hi hj hI hJ
  obtain ⟨hcoreT, rfl⟩ := Prod.mk.inj (Option.some.inj (hIJ.symm.trans hIJ'))
  obtain ⟨hcoreU, rfl⟩ := Prod.mk.inj (Option.some.inj (hJI.symm.trans hJI'))
  exact ⟨hcoreT.trans hcoreU.symm, hrespI.trans hrespI'.symm, hrespJ'.trans hrespJ.symm⟩
end

/-! ## The increment invariant -/

theorem CoreState.incOdd_iff (c : CoreState) :
    c.incOdd = true ↔ (∀ e ∈ c.e32, e.inc.getLsbD 0 = true) ∧ ∀ e ∈ c.e64, e.inc.getLsbD 0 = true := by
  obtain ⟨_ | e, _ | f⟩ := c <;> simp [CoreState.incOdd]

theorem incOdd_unseeded : CoreState.unseeded.incOdd = true := rfl

theorem incOdd_of_exec {i : Instr} {s t : State} (hs : s.IncOdd) (h : exec i s = .next t) : t.IncOdd := by
  obtain ⟨h32, h64⟩ := exec_enginesChange h
  obtain ⟨odd32, odd64⟩ := (CoreState.incOdd_iff _).1 hs
  exact (CoreState.incOdd_iff _).2 ⟨h32.inc_odd odd32, h64.inc_odd odd64⟩

/-- All that a step can do to the engines when it answers a next state: nothing (an idle block, an illegal word),
RESET, or what the instruction it runs does. -/
theorem step_next_cases {s t : State} (h : step s = .next t) :
    t.core = s.core ∨ t.core = CoreState.unseeded ∨ ∃ i, exec i s = .next t := by
  rw [step] at h
  cases hf : fetch s <;> rw [hf] at h
  case idle => cases h; exact .inl rfl
  case reset => cases h; exact .inr (.inl rfl)
  case illegal => cases h; exact .inl rfl
  case run i => exact .inr (.inr ⟨i, h⟩)

/-- Settles O53, by the kinds of step: RESET leaves no increment, SEED an odd one, and nothing else writes one. -/
theorem everyStepKeepsIncrementsOdd : Obligations.EveryStepKeepsIncrementsOdd := by
  intro s t hs h
  obtain hkept | hreset | ⟨i, hexec⟩ := step_next_cases h
  · exact (congrArg CoreState.incOdd hkept).trans hs
  · exact (congrArg CoreState.incOdd hreset).trans incOdd_unseeded
  · exact incOdd_of_exec hs hexec

/-- Settles O54: where no engine is seeded there is no increment. -/
theorem resetHasOddIncrements : Obligations.ResetHasOddIncrements :=
  ⟨incOdd_unseeded, fun _ h => (congrArg CoreState.incOdd h).trans incOdd_unseeded⟩

/-- Settles O40: the reset state is written out in the model. -/
theorem resetLeavesEnginesUnseeded : Obligations.ResetLeavesEnginesUnseeded :=
  ⟨rfl, rfl, rfl, rfl, rfl⟩

end Sys2Proof.Machine

/-! # The period of the recurrence of both engines (spec/10_state.md R25) -/

namespace Sys2Proof.Machine

open Function Finset

/-- Lifting the exponent at 2: a geometric sum with a ratio of 1 modulo 4 has the factors 2 of its length. -/
theorem two_pow_dvd_geom_sum_iff {m : ℤ} (hm : 4 ∣ m - 1) (hm1 : m ≠ 1) (n k : ℕ) :
    2 ^ n ∣ ∑ i ∈ range k, m ^ i ↔ 2 ^ n ∣ k := by
  have hfin : FiniteMultiplicity 2 (m - 1) := Int.finiteMultiplicity_iff.2 ⟨by decide, sub_ne_zero.2 hm1⟩
  have hval : emultiplicity 2 (∑ i ∈ range k, m ^ i) = emultiplicity 2 (k : ℤ) := by
    have hlte := Int.two_pow_sub_pow' k hm (by omega)
    rw [one_pow, ← geom_sum_mul, emultiplicity_mul Int.prime_two, add_comm] at hlte
    exact WithTop.add_left_cancel (finiteMultiplicity_iff_emultiplicity_ne_top.1 hfin) hlte
  rw [pow_dvd_iff_le_emultiplicity, hval, ← pow_dvd_iff_le_emultiplicity]
  exact_mod_cast Iff.rfl

section
variable {n : ℕ} {M C : BitVec n}

/-- Two words are equal when the integers they stand for are congruent modulo `2 ^ n`. -/
theorem toNat_modEq_iff {x y : BitVec n} : (x.toNat : ℤ) ≡ y.toNat [ZMOD 2 ^ n] ↔ x = y := by
  have hcast : ((2 ^ n : ℕ) : ℤ) = 2 ^ n := by simp
  rw [← hcast, Int.natCast_modEq_iff, Nat.ModEq, Nat.mod_eq_of_lt x.isLt, Nat.mod_eq_of_lt y.isLt, BitVec.toNat_inj]

theorem toNat_stepN_modEq (M C x : BitVec n) :
    ((stepN M C x).toNat : ℤ) ≡ x.toNat * M.toNat + C.toNat [ZMOD 2 ^ n] := by
  rw [stepN_eq, BitVec.toNat_add, BitVec.toNat_mul]
  push_cast
  exact (Int.mod_modEq _ _).trans ((Int.mod_modEq _ _).add_right _)

/-- After `k` steps the state has moved by a multiple of what the first step moves it by: the geometric sum. -/
theorem toNat_iterate_stepN_modEq (M C x : BitVec n) (k : ℕ) :
    (((stepN M C)^[k] x).toNat : ℤ) ≡
      x.toNat + (∑ i ∈ range k, (M.toNat : ℤ) ^ i) * ((M.toNat - 1) * x.toNat + C.toNat) [ZMOD 2 ^ n] := by
  induction k with
  | zero => simp
  | succ k ih =>
    rw [iterate_succ_apply', geom_sum_succ]
    calc ((stepN M C ((stepN M C)^[k] x)).toNat : ℤ)
        ≡ ((stepN M C)^[k] x).toNat * M.toNat + C.toNat [ZMOD 2 ^ n] := toNat_stepN_modEq M C _
      _ ≡ (x.toNat + (∑ i ∈ range k, (M.toNat : ℤ) ^ i) * ((M.toNat - 1) * x.toNat + C.toNat)) * M.toNat + C.toNat
          [ZMOD 2 ^ n] := (ih.mul_right _).add_right _
      _ = _ := by ring

/-- A state comes back after `k` steps only at the multiples of `2 ^ n`. -/
theorem isPeriodicPt_stepN_iff (hM : M.toNat % 4 = 1) (hM1 : M.toNat ≠ 1) (hC : C.getLsbD 0 = true) (x : BitVec n)
    (k : ℕ) : IsPeriodicPt (stepN M C) k x ↔ 2 ^ n ∣ k := by
  have hmove : Odd ((M.toNat - 1) * x.toNat + C.toNat : ℤ) := by
    have hM' : Even (M.toNat - 1 : ℤ) := by rw [Int.even_iff]; omega
    have hC' : Odd (C.toNat : ℤ) := by
      exact_mod_cast Nat.odd_iff.2 (by simpa [BitVec.getLsbD] using hC)
    exact (hM'.mul_right _).add_odd hC'
  have hcop : IsCoprime (2 ^ n : ℤ) ((M.toNat - 1) * x.toNat + C.toNat) := (Int.isCoprime_two_left.2 hmove).pow_left
  calc IsPeriodicPt (stepN M C) k x
      ↔ (((stepN M C)^[k] x).toNat : ℤ) ≡ x.toNat [ZMOD 2 ^ n] := toNat_modEq_iff.symm
    _ ↔ x.toNat + (∑ i ∈ range k, (M.toNat : ℤ) ^ i) * ((M.toNat - 1) * x.toNat + C.toNat)
          ≡ x.toNat [ZMOD 2 ^ n] :=
        ⟨(toNat_iterate_stepN_modEq M C x k).symm.trans, (toNat_iterate_stepN_modEq M C x k).trans⟩
    _ ↔ (2 ^ n : ℤ) ∣ (∑ i ∈ range k, (M.toNat : ℤ) ^ i) * ((M.toNat - 1) * x.toNat + C.toNat) :=
        Int.add_modEq_left_iff
    _ ↔ (2 ^ n : ℤ) ∣ ∑ i ∈ range k, (M.toNat : ℤ) ^ i := ⟨hcop.dvd_of_dvd_mul_right, (·.mul_right _)⟩
    _ ↔ 2 ^ n ∣ k := two_pow_dvd_geom_sum_iff (by omega) (by exact_mod_cast hM1) n k

/-- With an odd increment the period of every state is the number of states. -/
theorem minimalPeriod_stepN (hM : M.toNat % 4 = 1) (hM1 : M.toNat ≠ 1) (hC : C.getLsbD 0 = true) (x : BitVec n) :
    minimalPeriod (stepN M C) x = 2 ^ n :=
  (Nat.dvd_right_iff_eq.1 fun k => by
    rw [← isPeriodicPt_iff_minimalPeriod_dvd, isPeriodicPt_stepN_iff hM hM1 hC])

/-- A state whose period is as long as there are states reaches every state within one period. -/
theorem exists_iterate_eq_of_minimalPeriod {f : BitVec n → BitVec n} {x : BitVec n} (h : minimalPeriod f x = 2 ^ n)
    (y : BitVec n) : ∃ k, k < 2 ^ n ∧ f^[k] x = y := by
  have hinj : Injective fun k : BitVec n => f^[k.toNat] x := fun j k hjk =>
    BitVec.eq_of_toNat_eq <| iterate_injOn_Iio_minimalPeriod (h ▸ j.isLt) (h ▸ k.isLt) hjk
  have : Finite (BitVec n) := Finite.of_equiv _ BitVec.equivFin.symm.toEquiv
  obtain ⟨k, hk⟩ := Finite.surjective_of_injective hinj y
  exact ⟨k.toNat, k.isLt, hk⟩

theorem fullPeriod_stepN (hM : M.toNat % 4 = 1) (hM1 : M.toNat ≠ 1) (hC : C.getLsbD 0 = true) (x : BitVec n) :
    (∀ y, ∃ k, k < 2 ^ n ∧ (stepN M C)^[k] x = y) ∧
    (∀ k, 0 < k → k < 2 ^ n → (stepN M C)^[k] x ≠ x) ∧ (stepN M C)^[2 ^ n] x = x :=
  ⟨exists_iterate_eq_of_minimalPeriod (minimalPeriod_stepN hM hM1 hC x),
    fun _ hpos hlt hk => (Nat.le_of_dvd hpos ((isPeriodicPt_stepN_iff hM hM1 hC x _).1 hk)).not_gt hlt,
    (isPeriodicPt_stepN_iff hM hM1 hC x _).2 dvd_rfl⟩
end

/-- Settles O33: both multipliers are 1 modulo 4, so the geometric sum that moves a state has the factors 2 of the number
of steps, and an odd increment adds none. -/
theorem oddIncrementGivesFullPeriod : Obligations.OddIncrementGivesFullPeriod :=
  ⟨fun _ x hC => fullPeriod_stepN (by decide) (by decide) hC x,
    fun _ x hC => fullPeriod_stepN (by decide) (by decide) hC x⟩

end Sys2Proof.Machine

/-! # Requests and responses (spec/20_memory.md) -/

namespace Sys2Proof.Machine

/-! ## A bounded draw ends on an engine with an odd increment (R25, R214, R244) -/

/-- A state that the xorshift of `output32` takes to ones alone, which no rotation changes. -/
theorem output32_eq_allOnes : output32 0xFFFFC0000FFFFC00#64 = BitVec.allOnes 32 := by decide

/-- A state whose two limbs are complements, so that their xor is ones alone. -/
theorem output64_eq_allOnes : output64 0x0000000000000000FFFFFFFFFFFFFFFF#128 = BitVec.allOnes 64 := by decide

/-- Engine-32 draws the output of the state it then steps from (R205). -/
theorem drawNumber_next32 (inc p : BitVec 64) (k : Nat) :
    drawNumber (next32 · inc) k p = output32 ((stepN multiplier64 inc)^[k] p) := rfl

/-- Engine-64 draws the output of the state it has stepped to (R235). -/
theorem drawNumber_next64 (inc p : BitVec 128) (k : Nat) :
    drawNumber (next64 · inc) k p = output64 ((stepN multiplier128 inc)^[k + 1] p) := by
  rw [Function.iterate_succ_apply']
  rfl

/-- Within one period Engine-32 draws the greatest value there is: it comes to a state that answers it. -/
theorem exists_next32_drawNumber_eq_allOnes {inc : BitVec 64} (hinc : inc.getLsbD 0 = true) (p : BitVec 64) :
    ∃ k, k < 2 ^ 64 ∧ drawNumber (next32 · inc) k p = BitVec.allOnes 32 := by
  obtain ⟨k, hk, hstate⟩ := (oddIncrementGivesFullPeriod.1 inc p hinc).1 0xFFFFC0000FFFFC00#64
  exact ⟨k, hk, by rw [drawNumber_next32, hstate, output32_eq_allOnes]⟩

/-- Within one period Engine-64 draws the greatest value there is. -/
theorem exists_next64_drawNumber_eq_allOnes {inc : BitVec 128} (hinc : inc.getLsbD 0 = true) (p : BitVec 128) :
    ∃ k, k < 2 ^ 128 ∧ drawNumber (next64 · inc) k p = BitVec.allOnes 64 := by
  obtain ⟨k, hk, hstate⟩ :=
    (oddIncrementGivesFullPeriod.2 inc (stepN multiplier128 inc p) hinc).1 0x0000000000000000FFFFFFFFFFFFFFFF#128
  exact ⟨k, hk, by rw [drawNumber_next64, Function.iterate_succ_apply, hstate, output64_eq_allOnes]⟩

/-- No threshold is above the greatest draw, so a loop that can reach it does not reject every draw. -/
theorem drawWithin_ne_rejected {S W level k : Nat} {next : BitVec S → BitVec S × BitVec W} {p : BitVec S}
    (hk : k < 2 ^ level) (hmax : drawNumber next k p = BitVec.allOnes W) (t : BitVec W) (q : BitVec S) :
    drawWithin next t level p ≠ .rejected q := by
  obtain ⟨_, -, -, -, hacc⟩ | ⟨hall, -⟩ := drawWithin_cases next t level p
  · simp [hacc]
  · have hlt := hall k hk
    rw [hmax, BitVec.lt_def, BitVec.toNat_allOnes] at hlt
    have := t.isLt
    omega

section
variable (core : CoreState)

/-- All that BNEXT32 can do on a seeded engine. -/
theorem bnext32_cases (e : EngineState 64) (bound : BitVec 32) :
    bnext32 core e bound = .raised .divZero ∨
    (∃ (p : BitVec 64) (v : BitVec 32), bnext32 core e bound = .done (core.moveE32 e p) (onPort v) unusedPort) ∨
    bnext32 core e bound = .endless ∧
      ∃ t q, drawWithin (next32 · e.inc) t (Config.drawLevels 64) e.state = .rejected q := by
  by_cases hb : bound = 0
  · exact .inl (hb ▸ bnext32_zero core e)
  · cases hd : drawWithin (next32 · e.inc) (threshold32 bound) (Config.drawLevels 64) e.state with
    | accepted p v => exact .inr (.inl ⟨p, _, bnext32_of_accepted core hb hd⟩)
    | rejected q => exact .inr (.inr ⟨bnext32_of_rejected core hb hd, _, q, hd⟩)

/-- All that BNEXT64 can do on a seeded engine. -/
theorem bnext64_cases (e : EngineState 128) (bound : BitVec 64) :
    bnext64 core e bound = .raised .divZero ∨
    (∃ (p : BitVec 128) (v : BitVec 64), bnext64 core e bound = .done (core.moveE64 e p) (onPort v) unusedPort) ∨
    bnext64 core e bound = .endless ∧
      ∃ t q, drawWithin (next64 · e.inc) t (Config.drawLevels 128) e.state = .rejected q := by
  by_cases hb : bound = 0
  · exact .inl (hb ▸ bnext64_zero core e)
  · cases hd : drawWithin (next64 · e.inc) (-bound % bound) (Config.drawLevels 128) e.state with
    | accepted p v => exact .inr (.inl ⟨p, _, bnext64_of_accepted core hb hd⟩)
    | rejected q => exact .inr (.inr ⟨bnext64_of_rejected core hb hd, _, q, hd⟩)

theorem bnext32_ne_endless {e : EngineState 64} (hinc : e.inc.getLsbD 0 = true) (bound : BitVec 32) :
    bnext32 core e bound ≠ .endless := by
  obtain ⟨k, hk, hmax⟩ := exists_next32_drawNumber_eq_allOnes hinc e.state
  obtain h | ⟨p, v, h⟩ | ⟨-, t, q, hrej⟩ := bnext32_cases core e bound
  · simp [h]
  · simp [h]
  · exact absurd hrej (drawWithin_ne_rejected hk hmax t q)

theorem bnext64_ne_endless {e : EngineState 128} (hinc : e.inc.getLsbD 0 = true) (bound : BitVec 64) :
    bnext64 core e bound ≠ .endless := by
  obtain ⟨k, hk, hmax⟩ := exists_next64_drawNumber_eq_allOnes hinc e.state
  obtain h | ⟨p, v, h⟩ | ⟨-, t, q, hrej⟩ := bnext64_cases core e bound
  · simp [h]
  · simp [h]
  · exact absurd hrej (drawWithin_ne_rejected hk hmax t q)
end

/-! ## Only a bounded draw can be without end -/

section
variable {core : CoreState}

theorem withE32_endless {f : EngineState 64 → CommandResult} (h : withE32 core f = .endless) :
    ∃ e ∈ core.e32, f e = .endless := by
  unfold withE32 at h
  split at h
  next => cases h
  next e he => exact ⟨e, he, h⟩

theorem withE64_endless {f : EngineState 128 → CommandResult} (h : withE64 core f = .endless) :
    ∃ e ∈ core.e64, f e = .endless := by
  unfold withE64 at h
  split at h
  next => cases h
  next e he => exact ⟨e, he, h⟩

theorem divisionResult_ne_endless {n : Nat} (result : Option (BitVec n × BitVec n)) :
    divisionResult core result ≠ .endless := by
  cases result <;> simp [divisionResult]

/-- The commands that can be without end: a bounded draw, on the engine it draws from. -/
theorem effect_endless {i : Instr} {r : Request} (h : effect i r core = .endless) :
    (∃ e ∈ core.e32, bnext32 core e (opA 32 r) = .endless) ∨
      ∃ e ∈ core.e64, bnext64 core e (opA 64 r) = .endless := by
  cases i with
  | bnext32 => exact .inl (withE32_endless h)
  | bnext64 => exact .inr (withE64_endless h)
  | next32 | advance32 =>
    obtain ⟨e, -, he⟩ := withE32_endless h
    cases he
  | next64 | advance64 =>
    obtain ⟨e, -, he⟩ := withE64_endless h
    cases he
  | divrem64 | divrem128 => exact absurd h (divisionResult_ne_endless _)
  | trunc64 k | trunc128 k =>
    rw [effect] at h
    split at h <;> cases h
  | _ => cases h

/-- With odd increments every command ends. -/
theorem effect_ne_endless (hcore : core.incOdd = true) (i : Instr) (r : Request) : effect i r core ≠ .endless := by
  intro h
  obtain ⟨odd32, odd64⟩ := (CoreState.incOdd_iff core).1 hcore
  obtain ⟨e, he, hend⟩ | ⟨e, he, hend⟩ := effect_endless h
  · exact bnext32_ne_endless core (odd32 e he) _ hend
  · exact bnext64_ne_endless core (odd64 e he) _ hend
end

/-! ## A step completes, or stops in a draw without end -/

section
variable {s t : State} {r : Request} {rest : List Input}

/-- An idle block stays as it is (R44). -/
theorem step_of_idle (h : s.inputs = []) : step s = .next s := by
  simp only [step, fetch, h]

/-- RESET is one step (R340). -/
theorem step_of_reset (h : s.inputs = .reset :: rest) : step s = .next (s.resetBlock rest) := by
  simp only [step, fetch, h]

/-- A request that RESET abandons has the effect of the RESET alone (R340). -/
theorem step_of_abandoned (h : s.inputs = .abandoned r :: rest) : step s = .next (s.resetBlock rest) := by
  simp only [step, fetch, h]

/-- A step at a request ends as some command does: that of its word, or the fault of an illegal one (R43, R76). -/
theorem step_of_command (h : s.inputs = .command r :: rest) :
    ∃ result, step s = s.settle rest result ∧ (result = .endless → ∃ i, effect i r s.core = .endless) := by
  cases hd : decode r.cmd with
  | ok i => exact ⟨effect i r s.core, step_of_decode h hd, fun hend => ⟨i, hend⟩⟩
  | error e => exact ⟨.raised .illegalCmd, step_of_illegal h hd, fun hend => by cases hend⟩

/-- A step at a request that completes takes that request and adds one response. -/
theorem step_next_of_command (h : s.inputs = .command r :: rest) (ht : step s = .next t) :
    t.inputs = rest ∧ ∃ resp, t.responses = s.responses ++ [resp] := by
  obtain ⟨result, hstep, -⟩ := step_of_command h
  rw [hstep] at ht
  cases result with
  | done core res0 res1 => cases ht; exact ⟨rfl, .ok res0 res1, rfl⟩
  | raised code => cases ht; exact ⟨rfl, .fault code, rfl⟩
  | endless => cases ht

/-- All that a step can do: complete, or stop in a draw without end, which needs an even increment. -/
theorem steps_or_endless (s : State) : s.Steps ∨ step s = .fault .drawNeverAccepted ∧ ¬ s.IncOdd := by
  cases hin : s.inputs with
  | nil => exact .inl ⟨s, step_of_idle hin⟩
  | cons x rest =>
    cases x with
    | reset => exact .inl ⟨s.resetBlock rest, step_of_reset hin⟩
    | abandoned r => exact .inl ⟨s.resetBlock rest, step_of_abandoned hin⟩
    | command r =>
      obtain ⟨result, hstep, hend⟩ := step_of_command hin
      cases result with
      | done core res0 res1 => exact .inl ⟨_, hstep⟩
      | raised code => exact .inl ⟨_, hstep⟩
      | endless =>
        obtain ⟨i, hi⟩ := hend rfl
        exact .inr ⟨hstep, fun hs => effect_ne_endless hs i r hi⟩

theorem steps_of_incOdd (hs : s.IncOdd) : s.Steps :=
  (steps_or_endless s).resolve_right fun h => h.2 hs
end

/-- Settles O55: with odd increments a step cannot stop, and a step at a request that completes answers it. -/
theorem everyAcceptedCommandAnswers : Obligations.EveryAcceptedCommandAnswers := by
  intro s hs
  obtain ⟨t, ht⟩ := steps_of_incOdd hs
  refine ⟨⟨t, ht⟩, fun r rest h => ?_⟩
  obtain ⟨hinputs, resp, hresp⟩ := step_next_of_command h ht
  exact ⟨t, resp, ht, hinputs, hresp⟩

/-- Settles O57: a step that does not complete is the one stop that `steps_or_endless` leaves. -/
theorem onlyEndlessDrawStops : Obligations.OnlyEndlessDrawStops := by
  intro s
  obtain ⟨t, ht⟩ | ⟨hstop, hodd⟩ := steps_or_endless s
  · exact ⟨fun x hx => by simp [ht] at hx, fun x hx => by simp [ht] at hx⟩
  · refine ⟨fun x hx => by simp [hstop] at hx, fun x hx => ⟨?_, hodd⟩⟩
    cases hstop.symm.trans hx
    rfl

/-! ## A run serves all that waits -/

theorem State.RunsTo.zero (s : State) : s.RunsTo 0 s := rfl

theorem State.RunsTo.succ {s u t : State} {k : Nat} (hstep : step s = .next u) (hrun : u.RunsTo k t) :
    s.RunsTo (k + 1) t := by
  have hcore : Sys2Proof.core.step s = .next u := hstep
  simp only [State.RunsTo, Host.Core.run, hcore]
  exact hrun

/-- Settles O56, by induction on what waits: each step takes one request, adds one response and keeps the increments
odd. -/
theorem waitingRequestsAreAllServed : Obligations.WaitingRequestsAreAllServed := by
  intro s hs hall
  induction hin : s.inputs generalizing s with
  | nil => exact ⟨s, .zero s, hin, hs, List.prefix_rfl, rfl⟩
  | cons x rest ih =>
    rw [hin] at hall
    obtain ⟨r, rfl⟩ : ∃ r, x = .command r := by
      have hx := hall x List.mem_cons_self
      cases x with
      | command r => exact ⟨r, rfl⟩
      | abandoned r => cases hx
      | reset => cases hx
    obtain ⟨u, hu⟩ := steps_of_incOdd hs
    obtain ⟨hrest, resp, hresp⟩ := step_next_of_command hin hu
    obtain ⟨t, hrun, hnone, hodd, hkept, hlength⟩ :=
      ih u (everyStepKeepsIncrementsOdd s u hs hu) (fun y hy => hall y (List.mem_cons_of_mem _ (hrest ▸ hy))) hrest
    rw [hresp] at hkept hlength
    refine ⟨t, .succ hu hrun, hnone, hodd, (List.prefix_append _ _).trans hkept, ?_⟩
    rw [hlength, List.length_append, List.length_singleton, List.length_cons]
    omega

/-- Settles O52: both ways a command can complete take its request and add one response. -/
theorem eachRequestGivesOneResponse : Obligations.EachRequestGivesOneResponse := by
  intro i s t h
  obtain ⟨r, rest, hin, ⟨core, res0, res1, -, rfl⟩ | ⟨code, -, rfl⟩⟩ := exec_next h
  · exact ⟨r, .ok res0 res1, hin, rfl⟩
  · exact ⟨r, .fault code, hin, rfl⟩

/-! ## The operand bits a command uses (R41, R46) -/

section
open Sys2Proof.Certificates

theorem opA_congr {k : Nat} {r q : Request} (h : r.opa.toNat % 2 ^ k = q.opa.toNat % 2 ^ k) : opA k r = opA k q :=
  BitVec.eq_of_toNat_eq (by rw [toNat_opA, toNat_opA, h])

theorem opB_congr {k : Nat} {r q : Request} (h : r.opb.toNat % 2 ^ k = q.opb.toNat % 2 ^ k) : opB k r = opB k q :=
  BitVec.eq_of_toNat_eq (by rw [toNat_opB, toNat_opB, h])

/-- A command reads its request through the operands of its widths alone. -/
theorem effect_congr {i : Instr} {r q : Request} (ha : opA (operandWidths i).1 r = opA (operandWidths i).1 q)
    (hb : opB (operandWidths i).2 r = opB (operandWidths i).2 q) (core : CoreState) :
    effect i r core = effect i q core := by
  cases i with
  | next32 | next64 => rfl
  | neg64 | neg128 | not64 | not128 | shl64 _ | shl128 _ | shr64 _ | shr128 _ | trunc64 _ | trunc128 _ | bnext32
  | bnext64 | advance32 | advance64 =>
    simp only [operandWidths] at ha
    simp only [effect, ha]
  | _ =>
    simp only [operandWidths] at ha hb
    simp only [effect, ha, hb]

/-- Settles O50: the two requests have the same effect, and the command ends as its effect says. -/
theorem unusedOperandBitsAreIgnored : Obligations.UnusedOperandBitsAreIgnored := by
  intro i core r q rest before ha hb
  rw [exec_eq_runCommand, exec_eq_runCommand, runCommand_of_command rfl, runCommand_of_command rfl,
    effect_congr (opA_congr ha) (opB_congr hb)]
  cases effect i q core <;> rfl

/-! ## The result bits a command fills (R41, R46) -/

/-- The results of a command are below 2 to the widths `w`; a command without results meets any. -/
def CommandResult.FitsIn (w : Nat × Nat) : CommandResult → Prop
  | .done _ res0 res1 => res0.toNat < 2 ^ w.1 ∧ res1.toNat < 2 ^ w.2
  | .raised _ => True
  | .endless => True

theorem toNat_onPort_lt {k : Nat} (v : BitVec k) : (onPort v).toNat < 2 ^ k := by
  rw [onPort, zextN, BitVec.toNat_setWidth]
  exact (Nat.mod_le _ _).trans_lt v.isLt

theorem toNat_unusedPort_lt : unusedPort.toNat < 2 ^ 0 := by decide

section
variable (core : CoreState)

theorem noResult_fitsIn : (CommandResult.done core unusedPort unusedPort).FitsIn (0, 0) :=
  ⟨toNat_unusedPort_lt, toNat_unusedPort_lt⟩

theorem oneResult_fitsIn {k : Nat} (v : BitVec k) : (oneResult core v).FitsIn (k, 0) :=
  ⟨toNat_onPort_lt v, toNat_unusedPort_lt⟩

theorem twoResults_fitsIn {k l : Nat} (v : BitVec k) (u : BitVec l) :
    (CommandResult.done core (onPort v) (onPort u)).FitsIn (k, l) :=
  ⟨toNat_onPort_lt v, toNat_onPort_lt u⟩

theorem divisionResult_fitsIn {n : Nat} (result : Option (BitVec n × BitVec n)) :
    (divisionResult core result).FitsIn (n, n) := by
  cases result with
  | none => trivial
  | some qr => exact twoResults_fitsIn core qr.1 qr.2

theorem cast_fitsIn {k : Nat} (legal : Bool) (v : BitVec k) :
    (if legal then oneResult core v else .raised .illegalCmd).FitsIn (k, 0) := by
  cases legal with
  | false => trivial
  | true => exact oneResult_fitsIn core v

theorem bnext32_fitsIn (e : EngineState 64) (bound : BitVec 32) : (bnext32 core e bound).FitsIn (32, 0) := by
  obtain h | ⟨p, v, h⟩ | ⟨h, -⟩ := bnext32_cases core e bound <;> rw [h]
  · trivial
  · exact oneResult_fitsIn _ v
  · trivial

theorem bnext64_fitsIn (e : EngineState 128) (bound : BitVec 64) : (bnext64 core e bound).FitsIn (64, 0) := by
  obtain h | ⟨p, v, h⟩ | ⟨h, -⟩ := bnext64_cases core e bound <;> rw [h]
  · trivial
  · exact oneResult_fitsIn _ v
  · trivial

theorem withE32_fitsIn {w : Nat × Nat} {f : EngineState 64 → CommandResult} (h : ∀ e, (f e).FitsIn w) :
    (withE32 core f).FitsIn w := by
  unfold withE32
  split
  next => trivial
  next e _ => exact h e

theorem withE64_fitsIn {w : Nat × Nat} {f : EngineState 128 → CommandResult} (h : ∀ e, (f e).FitsIn w) :
    (withE64 core f).FitsIn w := by
  unfold withE64
  split
  next => trivial
  next e _ => exact h e

/-- Every command's results are of the widths of R46. -/
theorem effect_fitsIn (i : Instr) (r : Request) : (effect i r core).FitsIn (resultWidths i) := by
  cases i with
  | seed32 | seed64 => exact noResult_fitsIn _
  | advance32 => exact withE32_fitsIn core fun _ => noResult_fitsIn _
  | advance64 => exact withE64_fitsIn core fun _ => noResult_fitsIn _
  | next32 => exact withE32_fitsIn core fun _ => oneResult_fitsIn _ _
  | next64 => exact withE64_fitsIn core fun _ => oneResult_fitsIn _ _
  | bnext32 => exact withE32_fitsIn core fun e => bnext32_fitsIn core e _
  | bnext64 => exact withE64_fitsIn core fun e => bnext64_fitsIn core e _
  | trunc64 k | trunc128 k => exact cast_fitsIn core _ _
  | divrem64 | divrem128 => exact divisionResult_fitsIn core _
  | mulw128 => exact twoResults_fitsIn core _ _
  | _ => exact oneResult_fitsIn core _
end

/-- Settles O51: an OK response carries the results of the command's effect. -/
theorem unusedResultBitsAreZero : Obligations.UnusedResultBitsAreZero := by
  intro i s t res0 res1 h hok
  obtain ⟨r, rest, -, ⟨core, x, y, heff, rfl⟩ | ⟨code, -, rfl⟩⟩ := exec_next h
  · cases List.append_cancel_left hok
    have hfits := effect_fitsIn s.core i r
    rwa [heff] at hfits
  · cases List.append_cancel_left hok
end

/-! ## A step runs what the word decodes to (R43, R81) -/

section
variable {imm8 : Imm8} {w : Bool} {i : Instr}

/-- A row that may refuse the word gives an instruction only where its check holds. -/
theorem ite_ok_eq_ok {c : Prop} [Decidable c] {j : Instr} {e : Illegal}
    (h : (if c then Except.ok j else .error e) = .ok i) : c ∧ j = i := by
  split at h
  next hc => cases h; exact ⟨hc, rfl⟩
  next => cases h

theorem plainRow_wellFormed {i0 i1 : Instr} (h0 : i0.WellFormed) (h1 : i1.WellFormed)
    (h : plainRow imm8 w i0 i1 = .ok i) : i.WellFormed := by
  obtain ⟨-, rfl⟩ := ite_ok_eq_ok h
  cases w with
  | false => exact h0
  | true => exact h1

theorem shiftRow_wellFormed {i0 i1 : Imm8 → Instr} (h0 : (i0 imm8).WellFormed) (h1 : (i1 imm8).WellFormed)
    (h : shiftRow imm8 w i0 i1 = .ok i) : i.WellFormed := by
  cases h
  cases w with
  | false => exact h0
  | true => exact h1

/-- The cast row reads a width only where the instruction admits it. -/
theorem castRow_wellFormed (h : castRow imm8 w .trunc64 .trunc128 = .ok i) : i.WellFormed := by
  obtain ⟨hwidth, rfl⟩ := ite_ok_eq_ok h
  cases w with
  | false => exact hwidth
  | true => exact hwidth

/-- Every row of the opcode map gives instructions of the command set. -/
theorem decodeFields_wellFormed {op : BitVec 8} (h : decodeFields op w imm8 = .ok i) : i.WellFormed := by
  unfold decodeFields at h
  split at h
  case h_8 | h_9 => exact shiftRow_wellFormed rfl rfl h
  case h_12 => exact castRow_wellFormed h
  case h_20 => cases h
  all_goals exact plainRow_wellFormed rfl rfl h

theorem decode_wellFormed {cmd : CommandWord} (h : decode cmd = .ok i) : i.WellFormed := by
  unfold decode at h
  split at h
  · cases h
  · exact decodeFields_wellFormed h
end

/-- Settles O39: the word is read by a row of the opcode map, and `step` runs what is fetched. -/
theorem stepRunsDecodedInstruction : Obligations.StepRunsDecodedInstruction := by
  intro s r rest i h hd
  exact ⟨decode_wellFormed hd, by rw [step, fetch_of_legal h hd]⟩

end Sys2Proof.Machine

/-! # The decoder and the encoder (spec/30_encoding.md R71, R74, R76, R81) -/

namespace Sys2Proof.Machine

/-! ## The fields of a command word, as integers (R71) -/

section
variable (cmd : CommandWord)

theorem toNat_op : cmd.op.toNat = cmd.toNat % 2 ^ 8 := by
  rw [CommandWord.op, BitVec.extractLsb'_toNat, Nat.shiftRight_zero]

theorem toNat_w : cmd.w.toNat = cmd.toNat / 2 ^ 8 % 2 := by
  rw [CommandWord.w, BitVec.getLsbD, Nat.toNat_testBit]

theorem toNat_z0 : cmd.z0.toNat = cmd.toNat / 2 ^ 9 % 2 ^ 7 := by
  rw [CommandWord.z0, BitVec.extractLsb'_toNat, Nat.shiftRight_eq_div_pow]

theorem toNat_imm8 : cmd.imm8.toNat = cmd.toNat / 2 ^ 16 % 2 ^ 8 := by
  rw [CommandWord.imm8, BitVec.extractLsb'_toNat, Nat.shiftRight_eq_div_pow]

/-- The top field needs no reduction: a command word is 32 bits. -/
theorem toNat_z1 : cmd.z1.toNat = cmd.toNat / 2 ^ 24 := by
  have hlt : cmd.toNat / 2 ^ 24 < 2 ^ 8 := by have := cmd.isLt; omega
  rw [CommandWord.z1, BitVec.extractLsb'_toNat, Nat.shiftRight_eq_div_pow, Nat.mod_eq_of_lt hlt]
end

section
variable (op : BitVec 8) (w : Bool) (imm8 : Imm8)

/-- Bits put above bits are the higher digits. -/
theorem toNat_append_eq_add {n m : Nat} (x : BitVec n) (y : BitVec m) :
    (x ++ y).toNat = x.toNat * 2 ^ m + y.toNat := by
  rw [BitVec.toNat_append, ← Nat.shiftLeft_add_eq_or_of_lt y.isLt, Nat.shiftLeft_eq]

/-- The format F0 as R71 writes it. -/
theorem toNat_commandWord :
    (commandWord op w imm8).toNat = imm8.toNat * 2 ^ 16 + w.toNat * 2 ^ 8 + op.toNat := by
  simp only [commandWord, toNat_append_eq_add, BitVec.toNat_ofBool, BitVec.toNat_ofNat]
  omega

theorem op_commandWord : (commandWord op w imm8).op = op := by
  apply BitVec.eq_of_toNat_eq
  rw [toNat_op, toNat_commandWord]
  omega

theorem w_commandWord : (commandWord op w imm8).w = w := by
  rw [CommandWord.w, BitVec.getLsbD, toNat_commandWord, Nat.testBit_eq_decide_div_mod_eq]
  cases w with
  | false => rw [Bool.toNat_false, decide_eq_false_iff_not]; omega
  | true => rw [Bool.toNat_true, decide_eq_true_iff]; omega

theorem imm8_commandWord : (commandWord op w imm8).imm8 = imm8 := by
  apply BitVec.eq_of_toNat_eq
  rw [toNat_imm8, toNat_commandWord]
  have := w.toNat_lt
  omega

/-- A word whose reserved fields are zero is made of its other three fields. -/
theorem commandWord_fields {cmd : CommandWord} (h0 : cmd.z0 = 0) (h1 : cmd.z1 = 0) :
    commandWord cmd.op cmd.w cmd.imm8 = cmd := by
  have hz0 : cmd.z0.toNat = 0 := congrArg BitVec.toNat h0
  have hz1 : cmd.z1.toNat = 0 := congrArg BitVec.toNat h1
  rw [toNat_z0] at hz0
  rw [toNat_z1] at hz1
  apply BitVec.eq_of_toNat_eq
  rw [toNat_commandWord, toNat_op, toNat_w, toNat_imm8]
  omega
end

/-! ## What the decoder looks at -/

theorem decode_of_reservedZero {cmd : CommandWord} (h : Laws.ReservedZero cmd) :
    decode cmd = decodeFields cmd.op cmd.w cmd.imm8 := by
  rw [decode, if_neg (not_or.2 ⟨not_not_intro h.1, not_not_intro h.2⟩)]

theorem decode_of_not_reservedZero {cmd : CommandWord} (h : ¬ Laws.ReservedZero cmd) :
    decode cmd = .error .reservedBits := by
  rw [decode, if_pos (not_and_or.1 h)]

theorem decode_commandWord (op : BitVec 8) (w : Bool) (imm8 : Imm8) :
    decode (commandWord op w imm8) = decodeFields op w imm8 := by
  rw [decode_of_reservedZero (Laws.reservedZero_commandWord op w imm8), op_commandWord, w_commandWord, imm8_commandWord]

/-! ## Decoding what was encoded -/

/-- The cast row reads back a width that the command set has. -/
theorem decode_encode_trunc64 {k : Imm8} (hk : (Instr.trunc64 k).WellFormed) :
    decode (encode (.trunc64 k)) = .ok (.trunc64 k) :=
  (decode_commandWord 0x0C false k).trans (if_pos hk)

theorem decode_encode_trunc128 {k : Imm8} (hk : (Instr.trunc128 k).WellFormed) :
    decode (encode (.trunc128 k)) = .ok (.trunc128 k) :=
  (decode_commandWord 0x0C true k).trans (if_pos hk)

theorem decode_encode {i : Instr} (hi : i.WellFormed) : decode (encode i) = .ok i := by
  cases i with
  | trunc64 k => exact decode_encode_trunc64 hi
  | trunc128 k => exact decode_encode_trunc128 hi
  | shl64 n | shl128 n | shr64 n | shr128 n => exact decode_commandWord _ _ n
  | _ => exact decode_commandWord _ _ 0

/-- Settles O35: the fields of an encoded instruction are those its row writes, and the row reads them back. -/
theorem decodeOfEncodeIsIdentity : Obligations.DecodeOfEncodeIsIdentity :=
  fun _ hi => decode_encode hi

/-! ## Encoding what was decoded -/

section
variable {op : BitVec 8} {w : Bool} {imm8 : Imm8} {i : Instr}

theorem encode_of_plainRow {i0 i1 : Instr} (h0 : encode i0 = commandWord op false 0)
    (h1 : encode i1 = commandWord op true 0) (h : plainRow imm8 w i0 i1 = .ok i) :
    encode i = commandWord op w imm8 := by
  obtain ⟨rfl, rfl⟩ := ite_ok_eq_ok h
  cases w with
  | false => exact h0
  | true => exact h1

/-- A row with an immediate gives the instruction of its width, with that immediate. -/
theorem encode_of_immediate {i0 i1 : Imm8 → Instr} (h0 : encode (i0 imm8) = commandWord op false imm8)
    (h1 : encode (i1 imm8) = commandWord op true imm8) (h : (if w then i1 imm8 else i0 imm8) = i) :
    encode i = commandWord op w imm8 := by
  subst h
  cases w with
  | false => exact h0
  | true => exact h1

/-- Every row of the opcode map gives an instruction that is encoded with the fields the row was read from. -/
theorem encode_of_decodeFields (h : decodeFields op w imm8 = .ok i) : encode i = commandWord op w imm8 := by
  unfold decodeFields at h
  split at h
  case h_8 | h_9 => exact encode_of_immediate rfl rfl (Except.ok.inj h)
  case h_12 => exact encode_of_immediate rfl rfl (ite_ok_eq_ok h).2
  case h_20 => cases h
  all_goals exact encode_of_plainRow rfl rfl h

theorem encode_of_decode {cmd : CommandWord} (h : decode cmd = .ok i) : encode i = cmd := by
  by_cases hz : Laws.ReservedZero cmd
  · rw [decode_of_reservedZero hz] at h
    exact (encode_of_decodeFields h).trans (commandWord_fields hz.1 hz.2)
  · rw [decode_of_not_reservedZero hz] at h
    cases h
end

/-- Settles O36: the row that read the word writes the same fields, and a word that decodes has no other bits. -/
theorem encodeOfDecodeIsIdentity : Obligations.EncodeOfDecodeIsIdentity :=
  fun _ _ h => ⟨decode_wellFormed h, encode_of_decode h⟩

/-! ## The words the decoder rejects (R76) -/

section
variable {op : BitVec 8} {w : Bool} {imm8 : Imm8}

/-- A row that may refuse the word refuses it exactly where its check fails. -/
theorem exists_ite_eq_error_iff {c : Prop} [Decidable c] {j : Instr} {e : Illegal} :
    (∃ e', (if c then Except.ok j else .error e) = .error e') ↔ ¬ c := by
  by_cases hc : c <;> simp [hc]

theorem plainRow_error_iff {i0 i1 : Instr} : (∃ e, plainRow imm8 w i0 i1 = .error e) ↔ imm8.toNat ≠ 0 := by
  rw [plainRow, exists_ite_eq_error_iff, ← BitVec.toNat_inj]
  exact Iff.rfl

theorem shiftRow_ne_error {i0 i1 : Imm8 → Instr} : ¬ ∃ e, shiftRow imm8 w i0 i1 = .error e := by
  rintro ⟨e, h⟩
  cases h

/-- The two widths' lists of R76, items 4 and 5. -/
theorem castRow_error_iff {i0 i1 : Imm8 → Instr} : (∃ e, castRow imm8 w i0 i1 = .error e) ↔
    (w.toNat = 0 ∧ imm8.toNat ∉ [8, 16, 32]) ∨ (w.toNat = 1 ∧ imm8.toNat ∉ [8, 16, 32, 64]) := by
  rw [castRow, exists_ite_eq_error_iff]
  cases w with
  | false => simp [castWidths64, ← BitVec.toNat_inj]
  | true => simp [castWidths128, ← BitVec.toNat_inj]

/-- The opcode map rejects the fields of R76, items 2 to 5, and no others. -/
theorem decodeFields_error_iff : (∃ e, decodeFields op w imm8 = .error e) ↔
    (op.toNat = 0 ∨ (0x0D ≤ op.toNat ∧ op.toNat ≤ 0x0F) ∨ (0x12 ≤ op.toNat ∧ op.toNat ≤ 0x17) ∨
      (0x19 ≤ op.toNat ∧ op.toNat ≤ 0x1F) ∨ 0x24 ≤ op.toNat) ∨
    (op.toNat ≠ 0x08 ∧ op.toNat ≠ 0x09 ∧ op.toNat ≠ 0x0C ∧ imm8.toNat ≠ 0) ∨
    (op.toNat = 0x0C ∧ w.toNat = 0 ∧ imm8.toNat ∉ [8, 16, 32]) ∨
    (op.toNat = 0x0C ∧ w.toNat = 1 ∧ imm8.toNat ∉ [8, 16, 32, 64]) := by
  unfold decodeFields
  split
  case h_8 | h_9 => simp [shiftRow_ne_error]
  case h_12 => simp [castRow_error_iff]
  case h_20 =>
    simp only [← BitVec.toNat_inj, BitVec.toNat_ofNat, imp_false] at *
    refine iff_of_true ⟨_, rfl⟩ (.inl ?_)
    omega
  all_goals simp [plainRow_error_iff]
end

/-- A word is rejected for its reserved fields (R76 item 1) or by the opcode map. -/
theorem decode_error_iff (cmd : CommandWord) : (∃ e, decode cmd = .error e) ↔
    (cmd.z0.toNat ≠ 0 ∨ cmd.z1.toNat ≠ 0) ∨ ∃ e, decodeFields cmd.op cmd.w cmd.imm8 = .error e := by
  have hiff : (cmd.z0.toNat ≠ 0 ∨ cmd.z1.toNat ≠ 0) ↔ ¬ Laws.ReservedZero cmd := by
    rw [not_and_or, ← BitVec.toNat_inj, ← BitVec.toNat_inj]
    exact Iff.rfl
  rw [hiff]
  by_cases hz : Laws.ReservedZero cmd
  · rw [decode_of_reservedZero hz, or_iff_right (not_not_intro hz)]
  · rw [decode_of_not_reservedZero hz]
    exact iff_of_true ⟨_, rfl⟩ (.inl hz)

/-- Settles O37: the fields by division are the fields the decoder reads, and each row of the opcode map rejects as
R76 says. -/
theorem illegalWordsAreExactlyR76 : Obligations.IllegalWordsAreExactlyR76 := by
  intro cmd op w z0 imm8 z1 hop hw hz0 himm8 hz1
  rw [← toNat_op] at hop
  rw [← toNat_w] at hw
  rw [← toNat_z0] at hz0
  rw [← toNat_imm8] at himm8
  rw [← toNat_z1] at hz1
  subst hop hw hz0 himm8 hz1
  refine ⟨(decode_error_iff cmd).trans (or_congr_right decodeFields_error_iff), ?_⟩
  rintro s r rest hin rfl ⟨e, he⟩
  exact step_of_illegal hin he

/-- Settles O38: the words are read off by evaluation. -/
theorem sampleWordsDecode : Obligations.SampleWordsDecode := by
  unfold Obligations.SampleWordsDecode
  decide

end Sys2Proof.Machine

/-! # The comparison pseudo-instructions (spec/30_encoding.md R80) -/

namespace Sys2Proof.Machine

section
open Sys2Proof.Certificates

/-! ## Truth values on a port -/

/-- A truth value as a comparison puts it on RES0 (R125, R126). -/
def truthPort (b : Bool) : Port := if b then 1 else 0

theorem onPort_truthBit (b : Bool) : onPort (truthBit b) = truthPort b := by
  cases b <;> rfl

theorem onPort_ltN {n : Nat} (a b : BitVec n) : onPort (ltN a b) = truthPort (a.toNat < b.toNat) := by
  rw [ltN, onPort_truthBit, ltB]

theorem onPort_eqN {n : Nat} (a b : BitVec n) : onPort (eqN a b) = truthPort (a.toNat = b.toNat) := by
  rw [eqN, onPort_truthBit, beq_eq_decide, decide_eq_decide.2 BitVec.toNat_inj]

/-- XOR with 1 negates a truth value, at either width. -/
theorem onPort_xorN_truthPort_one (b : Bool) :
    onPort (xorN (truncN 64 (truthPort b)) (truncN 64 (1 : Port))) = truthPort (!b) ∧
    onPort (xorN (truncN 128 (truthPort b)) (truncN 128 (1 : Port))) = truthPort (!b) := by
  revert b; decide

/-! ## The commands of the expansions, at the width the pseudo-instruction selects -/

theorem WidthSelect.pick_wellFormed (w : WidthSelect) {i0 i1 : Instr} (h0 : i0.WellFormed) (h1 : i1.WellFormed) :
    (w.pick i0 i1).WellFormed := by
  cases w with
  | narrow => exact h0
  | wide => exact h1

section
variable (w : WidthSelect) (r : Request) (core : CoreState)

/-- LT answers the order of the integers its ports carry (R126). -/
theorem effect_lt : effect (w.pick .lt64 .lt128) r core =
    .done core (truthPort (valueAt w r.opa < valueAt w r.opb)) unusedPort := by
  cases w with
  | narrow => rw [WidthSelect.pick, effect, oneResult, onPort_ltN, toNat_opA, toNat_opB]; rfl
  | wide => rw [WidthSelect.pick, effect, oneResult, onPort_ltN, opA_128, opB_128]; rfl

/-- EQ answers whether the integers its ports carry are the same (R125). -/
theorem effect_eq : effect (w.pick .eq64 .eq128) r core =
    .done core (truthPort (valueAt w r.opa = valueAt w r.opb)) unusedPort := by
  cases w with
  | narrow => rw [WidthSelect.pick, effect, oneResult, onPort_eqN, toNat_opA, toNat_opB]; rfl
  | wide => rw [WidthSelect.pick, effect, oneResult, onPort_eqN, opA_128, opB_128]; rfl

theorem effect_xor_one (cmd : CommandWord) (b : Bool) :
    effect (w.pick .xor64 .xor128) { cmd := cmd, opa := truthPort b, opb := 1 } core =
      .done core (truthPort (!b)) unusedPort := by
  cases w with
  | narrow => exact congrArg (CommandResult.done core · unusedPort) (onPort_xorN_truthPort_one b).1
  | wide => exact congrArg (CommandResult.done core · unusedPort) (onPort_xorN_truthPort_one b).2
end

/-! ## Lines with two operands -/

section
variable {s : State} {names : Bindings} {name : Nat} {a b : LineOperand} {u v : Port} {i : Instr} {c : Bool}

theorem line2_request (ha : a.value names = some u) (hb : b.value names = some v) (i : Instr) :
    (line2 name i a b).request names = some { cmd := encode i, opa := u, opb := v } := by
  simp only [CommandLine.request, line2, portValue, ha, hb]

/-- `name = MNEMONIC operandA, operandB` binds `name` to the command's results on those operands. -/
theorem runLine_line2 {core : CoreState} {res0 res1 : Port} (ha : a.value names = some u) (hb : b.value names = some v)
    (hi : i.WellFormed) (he : effect i { cmd := encode i, opa := u, opb := v } s.core = .done core res0 res1) :
    runLine (line2 name i a b) (s, names) =
      some (s.respond s.inputs core (.ok res0 res1), (name, res0, res1) :: names) :=
  runLine_of_effect_done (line2_request ha hb i) (decode_encode hi) he

/-- One comparison binds its truth value. -/
theorem bindsResult_compare (ha : a.value names = some u) (hb : b.value names = some v) (hi : i.WellFormed)
    (he : effect i { cmd := encode i, opa := u, opb := v } s.core = .done s.core (truthPort c) unusedPort) :
    BindsResult [line2 name i a b] s names name (truthPort c, unusedPort) :=
  .cons (runLine_line2 ha hb hi he) (.nil (resultsOf_cons_same _ _ _))

/-- A comparison and then XOR with 1 on what it bound binds the negated truth value. -/
theorem bindsResult_compare_negated (w : WidthSelect) (ha : a.value names = some u) (hb : b.value names = some v)
    (hi : i.WellFormed)
    (he : effect i { cmd := encode i, opa := u, opb := v } s.core = .done s.core (truthPort c) unusedPort) :
    BindsResult [line2 name i a b, line2 name (w.pick .xor64 .xor128) (.res0 name) (.literal 1)] s names name
      (truthPort (!c), unusedPort) :=
  .cons (runLine_line2 ha hb hi he)
    (bindsResult_compare (value_res0_cons_same _ _ _ _) rfl (w.pick_wellFormed rfl rfl) (effect_xor_one w _ _ c))
end

/-! ## The four expansions on literals -/

section
variable (s : State) (names : Bindings) (name : Nat) (w : WidthSelect) (a b : Port)

theorem bindsResult_gt : BindsResult ((Pseudo.gt w (.literal a) (.literal b)).expand name) s names name
    (truthPort (valueAt w a > valueAt w b), unusedPort) :=
  bindsResult_compare rfl rfl (w.pick_wellFormed rfl rfl) (effect_lt w _ _)

theorem bindsResult_ge : BindsResult ((Pseudo.ge w (.literal a) (.literal b)).expand name) s names name
    (truthPort (valueAt w a ≥ valueAt w b), unusedPort) := by
  simp only [ge_iff_le, ← Nat.not_lt, decide_not]
  exact bindsResult_compare_negated w rfl rfl (w.pick_wellFormed rfl rfl) (effect_lt w _ _)

theorem bindsResult_le : BindsResult ((Pseudo.le w (.literal a) (.literal b)).expand name) s names name
    (truthPort (valueAt w a ≤ valueAt w b), unusedPort) :=
  bindsResult_ge s names name w b a

theorem bindsResult_ne : BindsResult ((Pseudo.ne w (.literal a) (.literal b)).expand name) s names name
    (truthPort (valueAt w a ≠ valueAt w b), unusedPort) := by
  rw [decide_not]
  exact bindsResult_compare_negated w rfl rfl (w.pick_wellFormed rfl rfl) (effect_eq w _ _)
end
end

/-- Settles O58: GT is LT with its operands exchanged, GE, LE and NE are a comparison negated by XOR with 1. -/
theorem comparePseudosAnswerTruth : Obligations.ComparePseudosAnswerTruth := by
  intro s names name w a b x y hx hy
  subst hx hy
  simp only [List.forall_mem_cons]
  exact ⟨bindsResult_gt s names name w a b, bindsResult_ge s names name w a b, bindsResult_le s names name w a b,
    bindsResult_ne s names name w a b, List.forall_mem_nil _⟩

end Sys2Proof.Machine

/-! # The jump-ahead unit and the engine pseudo-instructions (spec/46_advance.md, spec/30_encoding.md R80) -/

namespace Sys2Proof.Machine

/-! ## The jump-ahead loop composes steps (R260 to R262) -/

section
variable {n : Nat}

/-- Folding puts one step of the current map after the accumulated one. -/
theorem stepN_fold (accMult accPlus curMult curPlus x : BitVec n) :
    stepN (mulN accMult curMult) (addN (mulN accPlus curMult) curPlus) x =
      stepN curMult curPlus (stepN accMult accPlus x) := by
  simp only [stepN_eq, addN_eq, mulN_eq]
  ring

/-- Squaring makes the current map two steps of what it was. -/
theorem stepN_square (curMult curPlus : BitVec n) :
    stepN (mulN curMult curMult) (mulN (addN curMult 1) curPlus) = (stepN curMult curPlus)^[2] := by
  funext x
  simp only [stepN_eq, addN_eq, mulN_eq, Function.iterate_succ, Function.iterate_zero, Function.comp_apply, id]
  ring

theorem stepN_one_zero (x : BitVec n) : stepN 1 0 x = x := by
  simp [stepN_eq]

theorem toNat_shrN_one (delta : BitVec n) : (shrN delta 1).toNat = delta.toNat / 2 := by
  rw [shrN_eq, BitVec.toNat_ushiftRight, Nat.shiftRight_eq_div_pow, Nat.pow_one]

theorem toNat_getLsbD_zero (delta : BitVec n) : (delta.getLsbD 0).toNat = delta.toNat % 2 := by
  rw [BitVec.getLsbD, Nat.toNat_testBit, Nat.pow_zero, Nat.div_one]

/-- The accumulated map after a pass has taken one more step of the current map if the low bit is set. -/
theorem stepN_fold_bit (fold : Bool) (accMult accPlus curMult curPlus x : BitVec n) :
    stepN (if fold then mulN accMult curMult else accMult)
        (if fold then addN (mulN accPlus curMult) curPlus else accPlus) x =
      (stepN curMult curPlus)^[fold.toNat] (stepN accMult accPlus x) := by
  cases fold with
  | false => rfl
  | true => exact stepN_fold accMult accPlus curMult curPlus x

/-- A loop with enough passes for `delta` puts `delta` steps of the current map after the accumulated one. -/
theorem stepN_advanceLoop (passes : Nat) (delta accMult accPlus curMult curPlus x : BitVec n)
    (hpasses : delta.toNat < 2 ^ passes) :
    stepN (advanceLoop passes delta accMult accPlus curMult curPlus).1
        (advanceLoop passes delta accMult accPlus curMult curPlus).2 x =
      (stepN curMult curPlus)^[delta.toNat] (stepN accMult accPlus x) := by
  induction passes generalizing delta accMult accPlus curMult curPlus with
  | zero =>
    have hzero : delta.toNat = 0 := by omega
    rw [advanceLoop, hzero, Function.iterate_zero, id]
  | succ passes ih =>
    by_cases hdelta : delta = 0
    · have hzero : delta.toNat = 0 := congrArg BitVec.toNat hdelta
      rw [advanceLoop, if_pos hdelta, hzero, Function.iterate_zero, id]
    · have hhalf : (shrN delta 1).toNat < 2 ^ passes := by rw [toNat_shrN_one]; omega
      rw [advanceLoop, if_neg hdelta, ih _ _ _ _ _ hhalf, stepN_fold_bit, stepN_square, ← Function.iterate_mul,
        ← Function.iterate_add_apply, toNat_shrN_one, toNat_getLsbD_zero, Nat.div_add_mod]

/-- ADVANCE is the recurrence stepped `delta` times (R262). -/
theorem advanceN_eq_iterate (state delta M C : BitVec n) :
    advanceN state delta M C = (stepN M C)^[delta.toNat] state := by
  calc advanceN state delta M C
      = stepN (advanceLoop n delta 1 0 M C).1 (advanceLoop n delta 1 0 M C).2 state := by
        rw [stepN_eq, BitVec.mul_comm, ← mulN_eq, ← addN_eq]; rfl
    _ = (stepN M C)^[delta.toNat] (stepN 1 0 state) := stepN_advanceLoop n delta 1 0 M C state delta.isLt
    _ = (stepN M C)^[delta.toNat] state := by rw [stepN_one_zero]

/-! ## Going back is going on to the end of the period (R263) -/

theorem two_pow_dvd_toNat_negN_add (k : Nat) : 2 ^ n ∣ (negN (BitVec.ofNat n k)).toNat + k := by
  apply Nat.dvd_of_mod_eq_zero
  rw [negN_eq, ← BitVec.toNat_ofNat, BitVec.ofNat_add, BitVec.ofNat_toNat, BitVec.setWidth_eq, BitVec.add_comm,
    BitVec.add_right_neg]
  exact BitVec.toNat_zero

/-- With an odd increment, `-k` steps after `k` steps complete a number of periods. -/
theorem iterate_negN_iterate {M C : BitVec n} (hM : M.toNat % 4 = 1) (hM1 : M.toNat ≠ 1) (hC : C.getLsbD 0 = true)
    (k : Nat) (x : BitVec n) : (stepN M C)^[(negN (BitVec.ofNat n k)).toNat] ((stepN M C)^[k] x) = x := by
  rw [← Function.iterate_add_apply]
  exact (isPeriodicPt_stepN_iff hM hM1 hC x _).2 (two_pow_dvd_toNat_negN_add k)
end

/-! ## ADVANCE as a command, and as a line -/

theorem truncN_onPort {k : Nat} (hk : k ≤ 128) (v : BitVec k) : truncN k (onPort v) = v := by
  apply BitVec.eq_of_toNat_eq
  rw [toNat_truncN, toNat_onPort v hk, Nat.mod_eq_of_lt v.isLt]

section
variable {s : State} {core : CoreState} (names : Bindings) (v : Port)

/-- ADVANCE32 moves a seeded Engine-32 by as many steps as OPA says (R213). -/
theorem effect_advance32 {e : EngineState 64} (he : core.e32 = some e) (r : Request) :
    effect .advance32 r core =
      .done (core.moveE32 e ((stepN multiplier64 e.inc)^[(opA 64 r).toNat] e.state)) unusedPort unusedPort := by
  simp only [effect, withE32, he, advanceN_eq_iterate]

/-- ADVANCE64 moves a seeded Engine-64 by as many steps as OPA says (R243). -/
theorem effect_advance64 {e : EngineState 128} (he : core.e64 = some e) (r : Request) :
    effect .advance64 r core =
      .done (core.moveE64 e ((stepN multiplier128 e.inc)^[(opA 128 r).toNat] e.state)) unusedPort unusedPort := by
  simp only [effect, withE64, he, advanceN_eq_iterate]

/-- The one line of an engine pseudo-instruction binds no name. -/
theorem runLines_advanceLine (w : WidthSelect)
    (he : ∀ r : Request, r.opa = v →
      effect (w.pick .advance32 .advance64) r s.core = .done core unusedPort unusedPort) :
    ∃ t : State, runLines [advanceLine w v] (s, names) = some (t, names) ∧ t.core = core := by
  have hreq : (advanceLine w v).request names =
      some { cmd := encode (w.pick .advance32 .advance64), opa := v, opb := 0 } := rfl
  have hline := runLine_of_effect_done hreq (decode_encode (w.pick_wellFormed rfl rfl)) (he _ rfl)
  exact ⟨_, runLines_cons_of_runLine hline [], rfl⟩

theorem runLines_advance32 {p q inc : BitVec 64} (he : s.core.e32 = some { state := p, inc := inc })
    (hq : (stepN multiplier64 inc)^[(truncN 64 v).toNat] p = q) :
    ∃ t : State, runLines [advanceLine .narrow v] (s, names) = some (t, names) ∧
      t.core = { e32 := some { state := q, inc := inc }, e64 := s.core.e64 } :=
  hq ▸ runLines_advanceLine names v .narrow fun r hr => hr ▸ effect_advance32 he r

theorem runLines_advance64 {p q inc : BitVec 128} (he : s.core.e64 = some { state := p, inc := inc })
    (hq : (stepN multiplier128 inc)^[(truncN 128 v).toNat] p = q) :
    ∃ t : State, runLines [advanceLine .wide v] (s, names) = some (t, names) ∧
      t.core = { e32 := s.core.e32, e64 := some { state := q, inc := inc } } :=
  hq ▸ runLines_advanceLine names v .wide fun r hr => hr ▸ effect_advance64 he r
end

/-! ## The expansions of STEP and REWIND -/

/-- Settles O59: both are one ADVANCE, by 1 and by `-k`; with an odd increment the latter ends a number of periods after
the state that was `k` steps before. -/
theorem stepAndRewindPseudosMoveEngine : Obligations.StepAndRewindPseudosMoveEngine := by
  refine ⟨fun s names _ k p inc => ⟨fun he => ?step32, fun he hinc => ?rewind32⟩,
    fun s names _ k p inc => ⟨fun he => ?step64, fun he hinc => ?rewind64⟩⟩
  case step32 => exact runLines_advance32 names 1 he rfl
  case rewind32 =>
    refine runLines_advance32 names _ he ?_
    rw [truncN_onPort (by decide)]
    exact iterate_negN_iterate (by decide) (by decide) hinc k p
  case step64 => exact runLines_advance64 names 1 he rfl
  case rewind64 =>
    refine runLines_advance64 names (negN (BitVec.ofNat 128 k)) he ?_
    rw [truncN, BitVec.setWidth_eq]
    exact iterate_negN_iterate (by decide) (by decide) hinc k p

end Sys2Proof.Machine

/-! # The adder/subtractor and its limb realisation (spec/40_wide_addsub.md) -/

namespace Sys2Proof.Machine

/-! ## Sum, difference and negation as integers (R100, R102, R103) -/

section
variable {n : Nat} (a b : BitVec n)

theorem toNat_addN : (addN a b).toNat = (a.toNat + b.toNat) % 2 ^ n := BitVec.toNat_ofNat _ _

theorem toNat_negN : (negN a).toNat = (2 ^ n - a.toNat) % 2 ^ n := by
  rw [negN_eq, BitVec.toNat_neg]

theorem toNat_subN : (subN a b).toNat = (2 ^ n + a.toNat - b.toNat) % 2 ^ n := by
  rw [subN_eq, BitVec.toNat_sub, Nat.sub_add_comm b.isLt.le]

/-- A result port carries the integer of its value, at any width (R41). -/
theorem onPort_eq_ofNat : onPort a = BitVec.ofNat 128 a.toNat := (BitVec.ofNat_toNat _ _).symm
end

/-! ## The limb adder with its carry is the addition of the whole values (R101 to R103) -/

section
variable {h : Nat}

theorem Limbs.toNat_value (v : Limbs h) : v.value.toNat = v.high.toNat * 2 ^ h + v.low.toNat :=
  toNat_append_eq_add v.high v.low

/-- The low sum is below its first addend exactly when it wrapped, so the carry is the quotient of the sum. -/
theorem toNat_limbCarry (al bl : BitVec h) :
    (limbCarry (addN al bl) al).toNat = (al.toNat + bl.toNat) / 2 ^ h := by
  have ha := al.isLt
  have hb := bl.isLt
  have hiff : addN al bl < al ↔ (al.toNat + bl.toNat) % 2 ^ h < al.toNat := by rw [BitVec.lt_def, toNat_addN]
  by_cases hwrap : al.toNat + bl.toNat < 2 ^ h
  · rw [Nat.mod_eq_of_lt hwrap] at hiff
    rw [limbCarry, if_neg (mt hiff.1 (by omega)), Nat.div_eq_of_lt hwrap]
    exact BitVec.toNat_zero
  · have hdiv : (al.toNat + bl.toNat) / 2 ^ h = 1 := Nat.div_eq_of_lt_le (by omega) (by omega)
    rw [Nat.mod_eq_sub_mod (by omega), Nat.mod_eq_of_lt (by omega)] at hiff
    rw [limbCarry, if_pos (hiff.2 (by omega)), hdiv]
    have hone : 1 < 2 ^ h := by omega
    exact Nat.mod_eq_of_lt hone

/-- R101: the carry of the low limbs is the quotient that the high limbs of the whole sum take in. -/
theorem value_limbAdd (a b : Limbs h) : (limbAdd a b).value = addN a.value b.value := by
  apply BitVec.eq_of_toNat_eq
  have hwhole : a.value.toNat + b.value.toNat =
      a.low.toNat + b.low.toNat + 2 ^ h * (a.high.toNat + b.high.toNat) := by
    rw [Limbs.toNat_value, Limbs.toNat_value]; ring
  have hhigh : (limbAdd a b).high.toNat =
      ((a.low.toNat + b.low.toNat) / 2 ^ h + (a.high.toNat + b.high.toNat)) % 2 ^ h := by
    rw [limbAdd, toNat_addN, toNat_addN, toNat_limbCarry, Nat.mod_add_mod, Nat.add_comm]
  have hlow : (limbAdd a b).low.toNat = (a.low.toNat + b.low.toNat) % 2 ^ h := toNat_addN _ _
  calc (limbAdd a b).value.toNat
      = (a.low.toNat + b.low.toNat) % 2 ^ h +
          2 ^ h * (((a.low.toNat + b.low.toNat) / 2 ^ h + (a.high.toNat + b.high.toNat)) % 2 ^ h) := by
        rw [Limbs.toNat_value, hhigh, hlow, Nat.add_comm, Nat.mul_comm]
    _ = (a.value.toNat + b.value.toNat) % (2 ^ h * 2 ^ h) := by
        rw [Nat.mod_mul, hwhole, Nat.add_mul_mod_self_left, Nat.add_mul_div_left _ _ (Nat.two_pow_pos h)]
    _ = (addN a.value b.value).toNat := by rw [toNat_addN, Nat.pow_add]

theorem value_limbNot (a : Limbs h) : (limbNot a).value = notN a.value := BitVec.not_append.symm

/-- The limbs of the constant 1. -/
theorem Limbs.value_one : ({ high := 0, low := 1 } : Limbs h).value = 1 := by
  cases h with
  | zero => rfl
  | succ h =>
    apply BitVec.eq_of_toNat_eq
    rw [Limbs.toNat_value]
    simp

/-- R102: complement and increment, each as on the whole value. -/
theorem value_limbNeg (a : Limbs h) : (limbNeg a).value = negN a.value := by
  rw [limbNeg, value_limbAdd, value_limbNot, Limbs.value_one, negN]

/-- R103: the sum with the negation, each as on the whole values. -/
theorem value_limbSub (a b : Limbs h) : (limbSub a b).value = subN a.value b.value := by
  rw [limbSub, value_limbAdd, value_limbNeg, subN]
end

/-- Settles O14: at every limb width the low limbs hand the high limbs the carry of the whole sum, and negation and
subtraction are built from that sum as the integer definitions are. -/
theorem limbAdderIsExact : Obligations.LimbAdderIsExact :=
  ⟨fun a b => ⟨value_limbAdd a b, value_limbNeg a, value_limbSub a b⟩,
    fun a b => ⟨value_limbAdd a b, value_limbNeg a, value_limbSub a b⟩⟩

/-! ## The commands -/

section
open Sys2Proof.Certificates

/-- A command whose effect is one result answers the integer of that result on RES0, and writes no state. -/
theorem exec_of_oneResult {i : Instr} {s : State} {r : Request} {rest : List Input} {k : Nat} {v : BitVec k}
    (h : s.inputs = .command r :: rest) (he : effect i r s.core = oneResult s.core v) :
    exec i s = .next (served s rest s.core (.ok (BitVec.ofNat 128 v.toNat) 0)) := by
  rw [exec_eq_runCommand, runCommand_of_command h, he, oneResult, onPort_eq_ofNat]
  rfl
end

/-- Settles O1: the result is `addN` of the operands, which are OPA and OPB at the width. -/
theorem addAnswersSumModuloWidth : Obligations.AddAnswersSumModuloWidth := by
  refine ⟨by decide, by decide, fun s r rest h => ⟨?narrow, ?wide⟩⟩
  case narrow => rw [exec_of_oneResult (i := .add64) h rfl, toNat_addN, toNat_opA, toNat_opB]
  case wide => rw [exec_of_oneResult (i := .add128) h rfl, toNat_addN, opA_128, opB_128]

/-- Settles O2: the result is `subN` of the operands; `b < 2 ^ N`, so the natural subtraction is exact. -/
theorem subAnswersDifferenceModuloWidth : Obligations.SubAnswersDifferenceModuloWidth := by
  refine ⟨by decide, by decide, fun s r rest h => ⟨?narrow, ?wide⟩⟩
  case narrow => rw [exec_of_oneResult (i := .sub64) h rfl, toNat_subN, toNat_opA, toNat_opB]
  case wide => rw [exec_of_oneResult (i := .sub128) h rfl, toNat_subN, opA_128, opB_128]

/-- Settles O3: the result is `negN` of OPA at the width. -/
theorem negAnswersTwosComplement : Obligations.NegAnswersTwosComplement := by
  refine ⟨by decide, by decide, fun s r rest h => ⟨?narrow, ?wide⟩⟩
  case narrow => rw [exec_of_oneResult (i := .neg64) h rfl, toNat_negN, toNat_opA]
  case wide => rw [exec_of_oneResult (i := .neg128) h rfl, toNat_negN, opA_128]

end Sys2Proof.Machine

/-! # The bitwise, shift, compare and cast unit and its limb realisation (spec/41_wide_bitwise_shift_compare.md) -/

namespace Sys2Proof.Machine

/-! ## Complement and shifts as integers (R121 to R123) -/

section
variable {n : Nat} (a : BitVec n)

theorem toNat_notN : (notN a).toNat = 2 ^ n - 1 - a.toNat := BitVec.toNat_not

theorem toNat_shlN (amount : Nat) :
    (shlN a amount).toNat = if amount < n then a.toNat * 2 ^ amount % 2 ^ n else 0 := by
  rw [shlN, apply_ite BitVec.toNat, BitVec.toNat_ofNat]
  rfl

/-- The quotient is no larger than `a`, so it fits the width. -/
theorem toNat_shrN (amount : Nat) : (shrN a amount).toNat = if amount < n then a.toNat / 2 ^ amount else 0 := by
  rw [shrN, apply_ite BitVec.toNat, BitVec.toNat_ofNat, Nat.mod_eq_of_lt ((Nat.div_le_self _ _).trans_lt a.isLt)]
  rfl
end

/-! ## The limb shifts move the bits of the whole value (R124) -/

/-- A left shift below the width of the result: zeros enter at bit 0. -/
theorem getLsbD_shiftLeft_of_lt {w : Nat} (x : BitVec w) (n : Nat) {i : Nat} (hi : i < w) :
    (x <<< n).getLsbD i = if i < n then false else x.getLsbD (i - n) := by
  rw [BitVec.getLsbD_shiftLeft, decide_eq_true hi, Bool.true_and]
  by_cases hzero : i < n
  · rw [if_pos hzero, decide_eq_true hzero, Bool.not_true, Bool.false_and]
  · rw [if_neg hzero, decide_eq_false hzero, Bool.not_false, Bool.true_and]

section
variable {h : Nat} (a : Limbs h) {n : Nat}

theorem Limbs.getLsbD_value (i : Nat) :
    a.value.getLsbD i = if i < h then a.low.getLsbD i else a.high.getLsbD (i - h) := BitVec.getLsbD_append

theorem Limbs.value_zero : Limbs.value { high := 0, low := (0 : BitVec h) } = 0 := BitVec.zero_append_zero

/-- Below the limb width, the bits that leave the low limb at its top enter the high limb. -/
theorem Limbs.value_shiftLeft_of_lt (hn : n < h) :
    Limbs.value { high := a.high <<< n ||| a.low >>> (h - n), low := a.low <<< n } = a.value <<< n := by
  apply BitVec.eq_of_getLsbD_eq
  intro i hi
  rw [getLsbD_shiftLeft_of_lt _ _ hi, Limbs.getLsbD_value, Limbs.getLsbD_value, BitVec.getLsbD_or]
  by_cases hlow : i < h
  · rw [if_pos hlow, getLsbD_shiftLeft_of_lt _ _ hlow, if_pos (Nat.sub_lt_of_lt hlow)]
  · rw [if_neg hlow, getLsbD_shiftLeft_of_lt _ _ (by omega), BitVec.getLsbD_ushiftRight]
    grind

/-- From the limb width on, the low limb alone is left, in the place of the high limb. -/
theorem Limbs.value_shiftLeft_of_le (hn : h ≤ n) :
    Limbs.value { high := a.low <<< (n - h), low := 0 } = a.value <<< n := by
  apply BitVec.eq_of_getLsbD_eq
  intro i hi
  rw [getLsbD_shiftLeft_of_lt _ _ hi, Limbs.getLsbD_value, Limbs.getLsbD_value]
  by_cases hlow : i < h
  · rw [if_pos hlow, if_pos (hlow.trans_le hn)]
    exact BitVec.getLsbD_zero
  · rw [if_neg hlow, getLsbD_shiftLeft_of_lt _ _ (by omega)]
    grind

/-- Below the limb width, the bits that leave the high limb at its bottom enter the low limb. -/
theorem Limbs.value_shiftRight_of_lt (hn : n < h) :
    Limbs.value { high := a.high >>> n, low := a.low >>> n ||| a.high <<< (h - n) } = a.value >>> n := by
  apply BitVec.eq_of_getLsbD_eq
  intro i hi
  rw [BitVec.getLsbD_ushiftRight, Limbs.getLsbD_value, Limbs.getLsbD_value, BitVec.getLsbD_or]
  by_cases hlow : i < h
  · rw [if_pos hlow, getLsbD_shiftLeft_of_lt _ _ hlow, BitVec.getLsbD_ushiftRight]
    grind
  · rw [if_neg hlow, if_neg (by omega), BitVec.getLsbD_ushiftRight, Nat.add_sub_assoc (by omega)]

/-- From the limb width on, the high limb alone is left, in the place of the low limb. -/
theorem Limbs.value_shiftRight_of_le (hn : h ≤ n) :
    Limbs.value { high := 0, low := a.high >>> (n - h) } = a.value >>> n := by
  apply BitVec.eq_of_getLsbD_eq
  intro i hi
  have hsource : n - h + i = n + i - h := by omega
  have hhigh : ¬ n + i < h := by omega
  rw [BitVec.getLsbD_ushiftRight, Limbs.getLsbD_value, Limbs.getLsbD_value, if_neg hhigh]
  by_cases hlow : i < h
  · rw [if_pos hlow, BitVec.getLsbD_ushiftRight, hsource]
  · rw [if_neg hlow, BitVec.getLsbD_of_ge a.high _ (by omega)]
    exact BitVec.getLsbD_zero

/-- R124, left: a shift by the limb width, and by the whole width, are ends of the case from the limb width on. -/
theorem value_limbShl (n : Nat) : (limbShl a n).value = shlN a.value n := by
  simp only [limbShl, shlN_eq, shrN_eq, orN]
  split_ifs with hzero hlt heq hwidth
  · rw [hzero, BitVec.shiftLeft_zero]
  · exact a.value_shiftLeft_of_lt hlt
  · rw [← a.value_shiftLeft_of_le heq.ge, heq, Nat.sub_self, BitVec.shiftLeft_zero]
  · exact a.value_shiftLeft_of_le (Nat.le_of_not_lt hlt)
  · rw [BitVec.shiftLeft_eq_zero (Nat.le_of_not_lt hwidth)]
    exact Limbs.value_zero

/-- R124, right. -/
theorem value_limbShr (n : Nat) : (limbShr a n).value = shrN a.value n := by
  simp only [limbShr, shlN_eq, shrN_eq, orN]
  split_ifs with hzero hlt heq hwidth
  · rw [hzero, BitVec.ushiftRight_zero]
  · exact a.value_shiftRight_of_lt hlt
  · rw [← a.value_shiftRight_of_le heq.ge, heq, Nat.sub_self, BitVec.ushiftRight_zero]
  · exact a.value_shiftRight_of_le (Nat.le_of_not_lt hlt)
  · rw [BitVec.ushiftRight_eq_zero (Nat.le_of_not_lt hwidth)]
    exact Limbs.value_zero
end

/-- Settles O15: at every limb width, each case of R124 puts the bits where the shift of the whole value does. -/
theorem limbShiftsAreExact : Obligations.LimbShiftsAreExact :=
  ⟨fun a n => ⟨value_limbShl a n, value_limbShr a n⟩, fun a n => ⟨value_limbShl a n, value_limbShr a n⟩⟩

/-! ## Limb-wise logic, equality and order (R120, R125, R126) -/

section
variable {h : Nat} (a b : Limbs h)

theorem value_limbAnd : (limbAnd a b).value = andN a.value b.value := BitVec.and_append.symm

theorem value_limbOr : (limbOr a b).value = orN a.value b.value := BitVec.or_append.symm

theorem value_limbXor : (limbXor a b).value = xorN a.value b.value := BitVec.xor_append.symm
end

section
variable {h : Nat} {a b : Limbs h}

/-- A value determines its limbs: they are read back off it (R12). -/
theorem Limbs.value_inj : a.value = b.value ↔ a.high = b.high ∧ a.low = b.low := by
  constructor
  · intro hv
    have hhigh := congrArg (BitVec.extractLsb' h h) hv
    have hlow := congrArg (BitVec.extractLsb' 0 h) hv
    rw [Limbs.value, Limbs.value, BitVec.extractLsb'_append_eq_left, BitVec.extractLsb'_append_eq_left] at hhigh
    rw [Limbs.value, Limbs.value, BitVec.extractLsb'_append_eq_right, BitVec.extractLsb'_append_eq_right] at hlow
    exact ⟨hhigh, hlow⟩
  · rintro ⟨hhigh, hlow⟩
    rw [Limbs.value, Limbs.value, hhigh, hlow]

/-- A low limb is below `2 ^ h`, so it cannot make up for a smaller high limb. -/
theorem Limbs.value_lt_of_high_lt (hlt : a.high < b.high) : a.value < b.value := by
  have hsucc : (a.high.toNat + 1) * 2 ^ h ≤ b.high.toNat * 2 ^ h := Nat.mul_le_mul_right _ hlt
  have hlow := a.low.isLt
  rw [Nat.succ_mul] at hsucc
  rw [BitVec.lt_def, Limbs.toNat_value, Limbs.toNat_value]
  omega

/-- The order with the high limb first. -/
theorem Limbs.value_lt_iff : a.value < b.value ↔ a.high < b.high ∨ (a.high = b.high ∧ a.low < b.low) := by
  obtain hlt | heq | hgt := lt_trichotomy a.high.toNat b.high.toNat
  · exact iff_of_true (Limbs.value_lt_of_high_lt hlt) (.inl hlt)
  · simp [BitVec.lt_def, ← BitVec.toNat_inj, Limbs.toNat_value, heq]
  · have hnot : ¬ a.value < b.value := BitVec.lt_asymm (Limbs.value_lt_of_high_lt hgt)
    refine iff_of_false hnot ?_
    rintro (hlt | ⟨heq, -⟩)
    · exact BitVec.lt_asymm hlt hgt
    · exact hgt.ne' (congrArg BitVec.toNat heq)

theorem limbEq_iff : limbEq a b = true ↔ a.value = b.value := by
  rw [limbEq, Bool.and_eq_true, beq_iff_eq, beq_iff_eq, Limbs.value_inj]

theorem limbLt_iff : limbLt a b = true ↔ a.value < b.value := by
  rw [limbLt, Bool.or_eq_true, Bool.and_eq_true, beq_iff_eq, ltB_iff, ltB_iff, Limbs.value_lt_iff]

theorem limbEq_eq_decide : limbEq a b = decide (a.value = b.value) := by
  rw [Bool.eq_iff_iff, limbEq_iff, decide_eq_true_iff]

theorem limbLt_eq_ltB : limbLt a b = ltB a.value b.value := by
  rw [Bool.eq_iff_iff, limbLt_iff, ltB_iff]
end

/-- Settles O16: at every limb width no bit crosses a limb boundary, a value determines its limbs, and the high limbs
decide the order where they differ. -/
theorem limbLogicAndOrderAreExact : Obligations.LimbLogicAndOrderAreExact :=
  ⟨fun a b => ⟨value_limbAnd a b, value_limbOr a b, value_limbXor a b, value_limbNot a, limbEq_eq_decide,
      limbLt_eq_ltB⟩,
    fun a b => ⟨value_limbAnd a b, value_limbOr a b, value_limbXor a b, value_limbNot a, limbEq_eq_decide,
      limbLt_eq_ltB⟩⟩

/-! ## Command words with an immediate, written as integers (R71) -/

/-- A word given by its immediate and by the bits below it is read by the row of the opcode map that those bits name. -/
theorem decode_ofNat_imm8 {op : BitVec 8} {w : Bool} {low : Nat} (hlow : low = w.toNat * 2 ^ 8 + op.toNat)
    (imm8 : Imm8) : decode (BitVec.ofNat 32 (imm8.toNat * 0x10000 + low)) = decodeFields op w imm8 := by
  have hword : BitVec.ofNat 32 (imm8.toNat * 0x10000 + low) = commandWord op w imm8 := by
    rw [hlow, ← Nat.add_assoc, ← BitVec.setWidth_eq (commandWord op w imm8), ← BitVec.ofNat_toNat,
      toNat_commandWord]
    rfl
  rw [hword, decode_commandWord]

/-! ## The commands -/

/-- A result port shows the bits of its value, and zeros above them (R41). -/
theorem getLsbD_onPort {k : Nat} (hk : k ≤ 128) (v : BitVec k) (i : Nat) :
    (onPort v).getLsbD i = v.getLsbD i := by
  rw [onPort, zextN, BitVec.getLsbD_setWidth]
  by_cases hi : i < 128
  · rw [decide_eq_true hi, Bool.true_and]
  · rw [decide_eq_false hi, Bool.false_and, BitVec.getLsbD_of_ge v i (by omega)]

section
variable (k : Nat) (r : Request) (i : Nat)

theorem getLsbD_andN_operands :
    (andN (opA k r) (opB k r)).getLsbD i = (decide (i < k) && (r.opa.getLsbD i && r.opb.getLsbD i)) := by
  rw [andN, opA, opB, truncN, truncN, ← BitVec.setWidth_and, BitVec.getLsbD_setWidth, BitVec.getLsbD_and]

theorem getLsbD_orN_operands :
    (orN (opA k r) (opB k r)).getLsbD i = (decide (i < k) && (r.opa.getLsbD i || r.opb.getLsbD i)) := by
  rw [orN, opA, opB, truncN, truncN, ← BitVec.setWidth_or, BitVec.getLsbD_setWidth, BitVec.getLsbD_or]

theorem getLsbD_xorN_operands :
    (xorN (opA k r) (opB k r)).getLsbD i = (decide (i < k) && (r.opa.getLsbD i ^^ r.opb.getLsbD i)) := by
  rw [xorN, opA, opB, truncN, truncN, ← BitVec.setWidth_xor, BitVec.getLsbD_setWidth, BitVec.getLsbD_xor]
end

section
open Sys2Proof.Certificates
variable {s : State} {r : Request} {rest : List Input} {i : Instr}

/-- A command that completes is served with its results. -/
theorem exec_of_done {core : CoreState} {res0 res1 : Port} (h : s.inputs = .command r :: rest)
    (he : effect i r s.core = .done core res0 res1) : exec i s = .next (served s rest core (.ok res0 res1)) := by
  rw [exec_eq_runCommand, runCommand_of_command h, he]
  rfl

/-- A command whose effect is one result shows the bits of that result on RES0. -/
theorem exec_bits_of_oneResult {k : Nat} {v : BitVec k} {bit : Nat → Bool} (h : s.inputs = .command r :: rest)
    (he : effect i r s.core = oneResult s.core v) (hk : k ≤ 128) (hbit : ∀ j, v.getLsbD j = bit j) :
    ∃ x : Port, exec i s = .next (served s rest s.core (.ok x 0)) ∧ ∀ j, x.getLsbD j = bit j :=
  ⟨onPort v, exec_of_done h he, fun j => (getLsbD_onPort hk v j).trans (hbit j)⟩

/-- A comparison answers 1 where its relation holds, and else 0. -/
theorem exec_of_truthPort {p : Prop} [Decidable p] (h : s.inputs = .command r :: rest)
    (he : effect i r s.core = .done s.core (truthPort p) unusedPort) :
    exec i s = .next (served s rest s.core (.ok (if p then 1 else 0) 0)) := by
  have hp : truthPort p = if p then 1 else 0 := by simp only [truthPort, decide_eq_true_eq]
  rw [exec_of_done h he, hp]
  rfl
end

/-- Settles O4: the operation acts on the whole ports, of which the operands keep the bits below the width. -/
theorem bitwiseActsBitByBit : Obligations.BitwiseActsBitByBit := by
  refine ⟨by decide, by decide, by decide, by decide, by decide, by decide, fun s r rest h =>
    ⟨exec_bits_of_oneResult (i := .and64) h rfl (by decide) (getLsbD_andN_operands 64 r), ?and128,
      exec_bits_of_oneResult (i := .or64) h rfl (by decide) (getLsbD_orN_operands 64 r), ?or128,
      exec_bits_of_oneResult (i := .xor64) h rfl (by decide) (getLsbD_xorN_operands 64 r), ?xor128⟩⟩
  case and128 =>
    refine exec_bits_of_oneResult (i := .and128) h rfl le_rfl fun j => ?_
    rw [opA_128, opB_128, andN, BitVec.getLsbD_and]
  case or128 =>
    refine exec_bits_of_oneResult (i := .or128) h rfl le_rfl fun j => ?_
    rw [opA_128, opB_128, orN, BitVec.getLsbD_or]
  case xor128 =>
    refine exec_bits_of_oneResult (i := .xor128) h rfl le_rfl fun j => ?_
    rw [opA_128, opB_128, xorN, BitVec.getLsbD_xor]

/-- Settles O5: the result is `notN` of OPA at the width. -/
theorem notComplementsAtItsWidth : Obligations.NotComplementsAtItsWidth := by
  refine ⟨by decide, by decide, fun s r rest h => ⟨?narrow, ?wide⟩⟩
  case narrow => rw [exec_of_oneResult (i := .not64) h rfl, toNat_notN, toNat_opA]
  case wide => rw [exec_of_oneResult (i := .not128) h rfl, toNat_notN, opA_128]

/-- Settles O6: every amount is read by the SHL row, and the result is `shlN` of OPA at the width. -/
theorem shlMultipliesByPowerOfTwo : Obligations.ShlMultipliesByPowerOfTwo := by
  intro n
  refine ⟨decode_ofNat_imm8 (op := 0x08) (w := false) rfl n, decode_ofNat_imm8 (op := 0x08) (w := true) rfl n,
    fun s r rest h => ⟨?narrow, ?wide⟩⟩
  case narrow => rw [exec_of_oneResult (i := .shl64 n) h rfl, toNat_shlN, toNat_opA]
  case wide => rw [exec_of_oneResult (i := .shl128 n) h rfl, toNat_shlN, opA_128]

/-- Settles O7: every amount is read by the SHR row, and the result is `shrN` of OPA at the width. -/
theorem shrDividesByPowerOfTwo : Obligations.ShrDividesByPowerOfTwo := by
  intro n
  refine ⟨decode_ofNat_imm8 (op := 0x09) (w := false) rfl n, decode_ofNat_imm8 (op := 0x09) (w := true) rfl n,
    fun s r rest h => ⟨?narrow, ?wide⟩⟩
  case narrow => rw [exec_of_oneResult (i := .shr64 n) h rfl, toNat_shrN, toNat_opA]
  case wide => rw [exec_of_oneResult (i := .shr128 n) h rfl, toNat_shrN, opA_128]

/-- Settles O8: the effect of a comparison is the truth value of its relation between the integers at the width. -/
theorem compareAnswersOneBit : Obligations.CompareAnswersOneBit :=
  ⟨by decide, by decide, by decide, by decide, fun s r _ h =>
    ⟨exec_of_truthPort h (effect_eq .narrow r s.core), exec_of_truthPort h (effect_eq .wide r s.core),
      exec_of_truthPort h (effect_lt .narrow r s.core), exec_of_truthPort h (effect_lt .wide r s.core)⟩⟩

/-! ## The casts (R128, R145, R146) -/

section
variable {k : Imm8} {w : Bool} {low : Nat}

theorem decode_castWord (hlow : low = w.toNat * 2 ^ 8 + 0x0C) (hk : k ∈ if w then castWidths128 else castWidths64) :
    decode (BitVec.ofNat 32 (k.toNat * 0x10000 + low)) = .ok (if w then .trunc128 k else .trunc64 k) :=
  (decode_ofNat_imm8 (op := 0x0C) hlow k).trans (if_pos (List.contains_iff_mem.2 hk))

theorem decode_castWord_of_notMem (hlow : low = w.toNat * 2 ^ 8 + 0x0C)
    (hk : k ∉ if w then castWidths128 else castWidths64) :
    decode (BitVec.ofNat 32 (k.toNat * 0x10000 + low)) = .error .castWidth :=
  (decode_ofNat_imm8 (op := 0x0C) hlow k).trans (if_neg (mt List.contains_iff_mem.1 hk))

theorem effect_trunc64 (hk : k ∈ castWidths64) (r : Request) (core : CoreState) :
    effect (.trunc64 k) r core = oneResult core (truncN k.toNat (opA 64 r)) :=
  if_pos (List.contains_iff_mem.2 hk)

theorem effect_trunc128 (hk : k ∈ castWidths128) (r : Request) (core : CoreState) :
    effect (.trunc128 k) r core = oneResult core (truncN k.toNat (opA 128 r)) :=
  if_pos (List.contains_iff_mem.2 hk)
end

/-- Settles O9: the cast row of the opcode map reads the widths of its list and rejects every other. -/
theorem truncKeepsLowBits : Obligations.TruncKeepsLowBits := by
  intro k s r rest h
  constructor
  case left =>
    split
    next hk =>
      refine ⟨decode_castWord (w := false) rfl hk, ?_⟩
      rw [exec_of_oneResult h (effect_trunc64 hk r s.core), toNat_truncN, toNat_opA]
    next hk =>
      intro hcmd
      exact step_of_illegal h (hcmd ▸ decode_castWord_of_notMem (w := false) rfl hk)
  case right =>
    split
    next hk =>
      refine ⟨decode_castWord (w := true) rfl hk, ?_⟩
      rw [exec_of_oneResult h (effect_trunc128 hk r s.core), toNat_truncN, opA_128]
    next hk =>
      intro hcmd
      exact step_of_illegal h (hcmd ▸ decode_castWord_of_notMem (w := true) rfl hk)

end Sys2Proof.Machine

/-! # The multiplier and its limb realisation (spec/42_wide_multiply.md) -/

namespace Sys2Proof.Machine

/-! ## Limbs of a whole value (R12) -/

section
variable {h : Nat} (v : BitVec (h + h))

/-- The limbs of a value make it up again. -/
theorem Limbs.value_ofValue : (Limbs.ofValue v).value = v := by
  apply BitVec.eq_of_getLsbD_eq
  intro i hi
  rw [Limbs.getLsbD_value]
  by_cases hlow : i < h
  · simp [Limbs.ofValue, hlow]
  · have hhigh : i - h < h := by omega
    have hsum : h + (i - h) = i := by omega
    simp [Limbs.ofValue, hlow, hhigh, hsum]

theorem Limbs.toNat_ofValue :
    (Limbs.ofValue v).high.toNat * 2 ^ h + (Limbs.ofValue v).low.toNat = v.toNat := by
  rw [← Limbs.toNat_value, Limbs.value_ofValue]
end

/-! ## The schoolbook multiplies are those of the whole values (R152, R153) -/

section
variable {k : Nat} (a b : Limbs k)

/-- A partial product, from its limbs. -/
theorem toNat_ofValue_mulwN (x y : BitVec k) :
    (Limbs.ofValue (mulwN x y)).high.toNat * 2 ^ k + (Limbs.ofValue (mulwN x y)).low.toNat = x.toNat * y.toNat := by
  rw [Limbs.toNat_ofValue, toNat_mulwN]

/-- A column keeps its low `n` bits and hands the rest on as its carry, which loses nothing of the sum. -/
theorem ofNat_carry_append_ofNat (m n x y : Nat) :
    BitVec.ofNat m (x + y / 2 ^ n) ++ BitVec.ofNat n y = BitVec.ofNat (m + n) (x * 2 ^ n + y) := by
  apply BitVec.eq_of_toNat_eq
  have hmod : (x * 2 ^ n + y) % 2 ^ n = y % 2 ^ n := Nat.mul_add_mod_self_right x (2 ^ n) y
  have hdiv : (x * 2 ^ n + y) / 2 ^ n = x + y / 2 ^ n := by
    rw [Nat.add_comm, Nat.add_mul_div_right y x (Nat.two_pow_pos n), Nat.add_comm]
  rw [toNat_append_eq_add, BitVec.toNat_ofNat, BitVec.toNat_ofNat, BitVec.toNat_ofNat, Nat.add_comm m n, Nat.pow_add,
    Nat.mod_mul, hmod, hdiv, Nat.add_comm, Nat.mul_comm]

/-- The lowest column has no carry to hand on. -/
theorem ofNat_append (m x : Nat) {n : Nat} (y : BitVec n) :
    BitVec.ofNat m x ++ y = BitVec.ofNat (m + n) (x * 2 ^ n + y.toNat) := by
  have hcarry := ofNat_carry_append_ofNat m n x y.toNat
  rwa [Nat.div_eq_of_lt y.isLt, Nat.add_zero, BitVec.ofNat_toNat, BitVec.setWidth_eq] at hcarry

/-- The four columns of R152, each with the carry of the one below, make up the sum of the columns without carries. -/
theorem append_columns (r3 u t : Nat) (r0 : BitVec k) :
    (BitVec.ofNat k (r3 + (u + t / 2 ^ k) / 2 ^ k) ++ BitVec.ofNat k (u + t / 2 ^ k)) ++ (BitVec.ofNat k t ++ r0) =
      BitVec.ofNat ((k + k) + (k + k)) ((r3 * 2 ^ k + u) * 2 ^ (k + k) + (t * 2 ^ k + r0.toNat)) := by
  have hcarry : (t * 2 ^ k + r0.toNat) / 2 ^ (k + k) = t / 2 ^ k := by
    rw [Nat.pow_add, ← Nat.div_div_eq_div_mul, Nat.add_comm, Nat.add_mul_div_right _ t (Nat.two_pow_pos k),
      Nat.div_eq_of_lt r0.isLt, Nat.zero_add]
  rw [ofNat_carry_append_ofNat, ofNat_append k t r0, ← Nat.add_assoc (r3 * 2 ^ k), ← hcarry,
    ofNat_carry_append_ofNat]

/-- R152: the columns hold the limbs of the four partial products, each in its place. -/
theorem limbMulw_eq_mulwN : limbMulw a b = mulwN a.value b.value := by
  refine (append_columns _ _ _ _).trans (congrArg (BitVec.ofNat _) ?_)
  have hll := toNat_ofValue_mulwN a.low b.low
  have hlh := toNat_ofValue_mulwN a.low b.high
  have hhl := toNat_ofValue_mulwN a.high b.low
  have hhh := toNat_ofValue_mulwN a.high b.high
  rw [Limbs.toNat_value, Limbs.toNat_value, Nat.pow_add]
  linear_combination hll + 2 ^ k * hlh + 2 ^ k * hhl + 2 ^ k * 2 ^ k * hhh

/-- R153: the product of the high limbs is a multiple of `2 ^ (k + k)`, so nothing is lost by not forming it. -/
theorem value_limbMul : (limbMul a b).value = mulN a.value b.value := by
  have hhigh : (limbMul a b).high = BitVec.ofNat k ((Limbs.ofValue (mulwN a.low b.low)).high.toNat +
      (a.high.toNat * b.low.toNat + a.low.toNat * b.high.toNat)) := by
    simp [limbMul, addN_eq, mulN, BitVec.ofNat_add]
  have hlow : (limbMul a b).low = (Limbs.ofValue (mulwN a.low b.low)).low := rfl
  have hll := toNat_ofValue_mulwN a.low b.low
  rw [Limbs.value, hhigh, hlow, ofNat_append, mulN, Limbs.toNat_value, Limbs.toNat_value, ← BitVec.toNat_inj,
    BitVec.toNat_ofNat, BitVec.toNat_ofNat]
  refine (Nat.add_mul_mod_self_left _ (2 ^ (k + k)) (a.high.toNat * b.high.toNat)).symm.trans ?_
  congr 1
  rw [Nat.pow_add]
  linear_combination hll
end

/-- Settles O17: at every limb width the four columns are the whole product, and the two limbs its low half. -/
theorem schoolbookMultiplyIsExact : Obligations.SchoolbookMultiplyIsExact :=
  ⟨fun a b => ⟨limbMulw_eq_mulwN a b, value_limbMul a b⟩, fun a b => ⟨limbMulw_eq_mulwN a b, value_limbMul a b⟩⟩

/-! ## The commands -/

theorem toNat_mulN {n : Nat} (a b : BitVec n) : (mulN a b).toNat = a.toNat * b.toNat % 2 ^ n :=
  BitVec.toNat_ofNat _ _

/-- Settles O10: the result is `mulN` of the operands, which are OPA and OPB at the width. -/
theorem mulAnswersProductModuloWidth : Obligations.MulAnswersProductModuloWidth := by
  refine ⟨by decide, by decide, fun s r rest h => ⟨?narrow, ?wide⟩⟩
  case narrow => rw [exec_of_oneResult (i := .mul64) h rfl, toNat_mulN, toNat_opA, toNat_opB]
  case wide => rw [exec_of_oneResult (i := .mul128) h rfl, toNat_mulN, opA_128, opB_128]

/-- Settles O11: the product of 64-bit operands fits one result port, and that of 128-bit operands is on the two ports
limb by limb. -/
theorem mulwAnswersExactProduct : Obligations.MulwAnswersExactProduct := by
  refine ⟨by decide, by decide, fun s r rest h =>
    ⟨⟨_, exec_of_done (i := .mulw64) h rfl, ?narrow⟩, _, _, exec_of_done (i := .mulw128) h rfl, ?wide⟩⟩
  case narrow => rw [toNat_onPort _ le_rfl, toNat_mulwN, toNat_opA, toNat_opB]
  case wide =>
    rw [onPort_128, onPort_128, opA_128, opB_128, Nat.add_comm]
    exact toNat_ofValue_mulwN r.opa r.opb

end Sys2Proof.Machine

/-! # The divider and its reference search (spec/43_wide_divide.md) -/

namespace Sys2Proof.Machine

/-! ## The contract (R170, R171) -/

section
variable {n : Nat} {a b : BitVec n}

theorem toNat_pos_of_ne_zero (hb : b ≠ 0) : 0 < b.toNat :=
  Nat.pos_of_ne_zero fun h => hb (BitVec.eq_of_toNat_eq h)

/-- At a width with a value that is not zero, the constant 1 stands for the integer 1. -/
theorem toNat_one_of_pos {x : BitVec n} (hx : 0 < x.toNat) : (1 : BitVec n).toNat = 1 :=
  have hone : 1 < 2 ^ n := Nat.lt_of_le_of_lt hx x.isLt
  Nat.mod_eq_of_lt hone

/-- R170: the pair is the one that meets the contract over the integers. -/
theorem divremN_eq_some_iff {q r : BitVec n} :
    divremN a b = some (q, r) ↔ a.toNat = q.toNat * b.toNat + r.toNat ∧ r.toNat < b.toNat := by
  constructor
  case mp =>
    intro h
    by_cases hb : b = 0
    · subst hb
      cases divremN_zero a ▸ h
    · cases (divremN_of_ne_zero a b hb).symm.trans h
      rw [BitVec.toNat_udiv, BitVec.toNat_umod, Nat.div_add_mod']
      exact ⟨rfl, Nat.mod_lt _ (toNat_pos_of_ne_zero hb)⟩
  case mpr =>
    rintro ⟨heq, hlt⟩
    have hpos : 0 < b.toNat := Nat.zero_lt_of_lt hlt
    have hb : b ≠ 0 := fun h => hpos.ne' (congrArg BitVec.toNat h)
    have hmul : b.toNat * q.toNat + r.toNat = a.toNat := by rw [heq, Nat.mul_comm]
    rw [divremN_of_ne_zero a b hb, BitVec.udiv_eq_of_mul_add_toNat hpos hlt hmul,
      BitVec.umod_eq_of_mul_add_toNat hlt hmul]
end

/-! ## The fast paths meet the contract (R172) -/

section
variable {n : Nat} {a b : BitVec n}

theorem divremN_one (hone : (1 : BitVec n) ≠ 0) : divremN a 1 = some (a, 0) := by
  rw [divremN_eq_some_iff, toNat_one_of_pos (toNat_pos_of_ne_zero hone), Nat.mul_one]
  exact ⟨rfl, Nat.one_pos⟩

theorem divremN_self (hb : b ≠ 0) : divremN b b = some (1, 0) := by
  have hpos := toNat_pos_of_ne_zero hb
  rw [divremN_eq_some_iff, toNat_one_of_pos hpos, Nat.one_mul]
  exact ⟨rfl, hpos⟩

theorem divremN_of_lt (hlt : a.toNat < b.toNat) : divremN a b = some (0, a) := by
  simp [divremN_eq_some_iff, hlt]
end

/-! ## The bisection finds the quotient (R174, R175) -/

section
variable {n : Nat}

/-- The upper midpoint of R175. -/
def upperMid (lo hi : BitVec n) : BitVec n := addN lo (shrN (addN (subN hi lo) 1) 1)

theorem toNat_subN_of_le {x y : BitVec n} (h : y.toNat ≤ x.toNat) : (subN x y).toNat = x.toNat - y.toNat := by
  rw [subN_eq, BitVec.toNat_sub_of_le h]

theorem toNat_addN_of_lt {x y : BitVec n} (h : x.toNat + y.toNat < 2 ^ n) :
    (addN x y).toNat = x.toNat + y.toNat := by
  rw [toNat_addN, Nat.mod_eq_of_lt h]

/-- No operation of the midpoint wraps: `lo` is not 0, so that `hi - lo + 1` is at most `hi`. -/
theorem toNat_upperMid {lo hi : BitVec n} (hlo : 1 ≤ lo.toNat) (hlt : lo.toNat < hi.toNat) :
    (upperMid lo hi).toNat = lo.toNat + (hi.toNat - lo.toNat + 1) / 2 := by
  have hhi := hi.isLt
  have hone := toNat_one_of_pos (Nat.zero_lt_of_lt hlt)
  have hdiff : (subN hi lo).toNat = hi.toNat - lo.toNat := toNat_subN_of_le hlt.le
  have hsize : (addN (subN hi lo) 1).toNat = hi.toNat - lo.toNat + 1 := by
    rw [toNat_addN_of_lt (by omega), hdiff, hone]
  have hhalf : (shrN (addN (subN hi lo) 1) 1).toNat = (hi.toNat - lo.toNat + 1) / 2 := by
    rw [toNat_shrN_one, hsize]
  rw [upperMid, toNat_addN_of_lt (by omega), hhalf]

/-- One pass, with its test as a comparison with the quotient: the widened product is the whole product (R174). -/
theorem bisectLoop_succ {a b : BitVec n} (hb : b ≠ 0) (passes : Nat) (lo hi : BitVec n) :
    bisectLoop a b (passes + 1) lo hi =
      if lo.toNat < hi.toNat then
        if (upperMid lo hi).toNat ≤ a.toNat / b.toNat then bisectLoop a b passes (upperMid lo hi) hi
        else bisectLoop a b passes lo (subN (upperMid lo hi) 1)
      else lo := by
  simp only [Nat.le_div_iff_mul_le (toNat_pos_of_ne_zero hb), ← toNat_mulwN,
    ← toNat_zextN a (Nat.le_add_right n n)]
  rfl

/-- The invariant of the search: the wanted `q` is in the interval from `lo` to `hi`, which as many halvings as there
are passes left bring down to one point. -/
structure Brackets (q passes lo hi : Nat) : Prop where
  one_le : 1 ≤ lo
  lo_le : lo ≤ q
  le_hi : q ≤ hi
  width : hi - lo < 2 ^ passes

theorem Brackets.eq_of_le {q passes lo hi : Nat} (h : Brackets q passes lo hi) (hle : hi ≤ lo) : lo = q :=
  h.lo_le.antisymm (h.le_hi.trans hle)

section
variable {q passes lo hi mid : Nat} (h : Brackets q (passes + 1) lo hi) (hmid : mid = lo + (hi - lo + 1) / 2)
include h hmid

theorem Brackets.upper_half (hle : mid ≤ q) : Brackets q passes mid hi := by
  obtain ⟨hone, hlo, hhi, hwidth⟩ := h
  constructor <;> omega

theorem Brackets.lower_half (hlt : q < mid) : Brackets q passes lo (mid - 1) := by
  obtain ⟨hone, hlo, hhi, hwidth⟩ := h
  constructor <;> omega
end

/-- A search with enough passes for its interval ends at the quotient. -/
theorem toNat_bisectLoop {a b : BitVec n} (hb : b ≠ 0) (passes : Nat) (lo hi : BitVec n)
    (h : Brackets (a.toNat / b.toNat) passes lo.toNat hi.toNat) :
    (bisectLoop a b passes lo hi).toNat = a.toNat / b.toNat := by
  induction passes generalizing lo hi with
  | zero =>
    have hwidth : hi.toNat - lo.toNat < 1 := h.width
    exact h.eq_of_le (by omega)
  | succ passes ih =>
    rw [bisectLoop_succ hb]
    split_ifs with hlt hmid
    case pos => exact ih _ _ (h.upper_half (toNat_upperMid h.one_le hlt) hmid)
    case neg =>
      have hupper := toNat_upperMid h.one_le hlt
      have hone := toNat_one_of_pos (Nat.zero_lt_of_lt hlt)
      have hpred : (subN (upperMid lo hi) 1).toNat = (upperMid lo hi).toNat - 1 := by
        rw [toNat_subN_of_le (by omega), hone]
      exact ih _ _ (hpred ▸ h.lower_half hupper (Nat.lt_of_not_le hmid))
    case neg => exact h.eq_of_le (Nat.le_of_not_lt hlt)

/-- Where the fast paths do not end the division, the interval `[1, 2 ^ n - 1]` holds the quotient. -/
theorem brackets_start {a b : BitVec n} (hb : b ≠ 0) (hle : b.toNat ≤ a.toNat) :
    Brackets (a.toNat / b.toNat) n (1 : BitVec n).toNat (BitVec.allOnes n).toNat := by
  have ha := a.isLt
  have hdiv : a.toNat / b.toNat ≤ a.toNat := Nat.div_le_self _ _
  rw [toNat_one_of_pos (toNat_pos_of_ne_zero hb), BitVec.toNat_allOnes]
  exact ⟨le_rfl, Nat.div_pos hle (toNat_pos_of_ne_zero hb), by omega, by omega⟩

/-- R176: the quotient times the divisor is at most the dividend, so neither it nor the difference wraps. -/
theorem toNat_subN_mulN {a b q : BitVec n} (hq : q.toNat = a.toNat / b.toNat) :
    (subN a (mulN q b)).toNat = a.toNat % b.toNat := by
  have hle : q.toNat * b.toNat ≤ a.toNat := hq ▸ Nat.div_mul_le_self _ _
  have hmul : (mulN q b).toNat = q.toNat * b.toNat := by
    rw [toNat_mulN, Nat.mod_eq_of_lt (hle.trans_lt a.isLt)]
  rw [toNat_subN_of_le (hmul ▸ hle), hmul, hq, ← Nat.mod_eq_sub_div_mul]

/-- Where the fast paths do not end the division, the search and its remainder meet the contract. -/
theorem divremN_eq_bisection {a b : BitVec n} (hb : b ≠ 0) (hle : b.toNat ≤ a.toNat) :
    divremN a b = some (bisectLoop a b n 1 (BitVec.allOnes n),
      subN a (mulN (bisectLoop a b n 1 (BitVec.allOnes n)) b)) := by
  have hq := toNat_bisectLoop hb n 1 (BitVec.allOnes n) (brackets_start hb hle)
  rw [divremN_eq_some_iff, toNat_subN_mulN hq, hq, Nat.div_add_mod']
  exact ⟨rfl, Nat.mod_lt _ (toNat_pos_of_ne_zero hb)⟩

/-- R171 to R176 at every width, path by path; the half-width path is the contract itself. -/
theorem bisectDivremN_eq_divremN (a b : BitVec n) : bisectDivremN a b = divremN a b := by
  rw [bisectDivremN]
  split_ifs with hzero hone heq hlt hhalf
  · rw [hzero, divremN_zero]
  · rw [hone, divremN_one (hone ▸ hzero)]
  · rw [heq, divremN_self hzero]
  · rw [divremN_of_lt hlt]
  · rw [divremN, if_neg hzero]
  · exact (divremN_eq_bisection hzero (Nat.le_of_not_lt hlt)).symm
end

/-- Settles O13: at every width the search keeps the quotient between its ends and halves their distance. -/
theorem bisectionMeetsDivisionContract : Obligations.BisectionMeetsDivisionContract :=
  ⟨bisectDivremN_eq_divremN, bisectDivremN_eq_divremN⟩

/-! ## The commands -/

section
open Sys2Proof.Certificates
variable {s : State} {r : Request} {rest : List Input} {i : Instr}

/-- A command that raises a fault is served with it and writes no state. -/
theorem exec_of_raised {code : FaultCode} (h : s.inputs = .command r :: rest)
    (he : effect i r s.core = .raised code) : exec i s = .next (served s rest s.core (.fault code)) := by
  rw [exec_eq_runCommand, runCommand_of_command h, he]
  rfl

section
variable {n : Nat} {a b : BitVec n} (h : s.inputs = .command r :: rest)
  (he : effect i r s.core = divisionResult s.core (divremN a b))
include h he

/-- A division by zero takes DIV_ZERO (R171). -/
theorem exec_of_zero_divisor (hb : b.toNat = 0) :
    exec i s = .next (served s rest s.core (.fault .divZero)) := by
  have hzero : b = 0 := BitVec.eq_of_toNat_eq hb
  exact exec_of_raised h (by rw [he, hzero, divremN_zero, divisionResult])

/-- Any other division answers, on the two ports, the pair of the contract (R170). -/
theorem exec_of_nonzero_divisor (hn : n ≤ 128) (hb : b.toNat ≠ 0) :
    ∃ q m : Port, exec i s = .next (served s rest s.core (.ok q m)) ∧
      a.toNat = q.toNat * b.toNat + m.toNat ∧ m.toNat < b.toNat ∧ q.toNat < 2 ^ n := by
  have hzero : b ≠ 0 := fun hz => hb (congrArg BitVec.toNat hz)
  have hpair : divremN a b = some (a / b, a % b) := divremN_of_ne_zero a b hzero
  obtain ⟨heq, hlt⟩ := divremN_eq_some_iff.1 hpair
  refine ⟨onPort (a / b), onPort (a % b), exec_of_done h (by rw [he, hpair, divisionResult]), ?_⟩
  rw [toNat_onPort _ hn, toNat_onPort _ hn]
  exact ⟨heq, hlt, (a / b).isLt⟩
end
end

/-- Settles O12: the operands are OPA and OPB at the width, and it is the divisor at the width that is tested for 0. -/
theorem divremAnswersQuotientAndRemainder : Obligations.DivremAnswersQuotientAndRemainder := by
  refine ⟨by decide, by decide, fun s r rest h => ⟨?narrow, ?wide⟩⟩
  case narrow =>
    rw [← toNat_opA, ← toNat_opB]
    split
    next hb => exact exec_of_zero_divisor (i := .divrem64) h rfl hb
    next hb => exact exec_of_nonzero_divisor (i := .divrem64) h rfl (by decide) hb
  case wide =>
    rw [← opA_128, ← opB_128]
    split
    next hb => exact exec_of_zero_divisor (i := .divrem128) h rfl hb
    next hb =>
      obtain ⟨q, m, hexec, heq, hlt, -⟩ := exec_of_nonzero_divisor (i := .divrem128) h rfl le_rfl hb
      exact ⟨q, m, hexec, heq, hlt⟩

end Sys2Proof.Machine

/-! # The engines: seeding, output and bounded draws (spec/44_engine32.md, spec/45_engine64.md) -/

namespace Sys2Proof.Machine

open Sys2Proof.Certificates

/-! ## The rotation of the output (R204, R234) -/

section
variable {n : Nat} (v : BitVec n) {r i : Nat}

/-- The second shift wraps to no shift at all where `r` is 0, which the library's rotation does by a shift of the whole
width. -/
theorem orN_shrN_shlN_eq_rotateRight (hr : r < n) :
    orN (shrN v r) (shlN v ((n - r) % n)) = v.rotateRight r := by
  rw [orN, shrN_eq, shlN_eq, BitVec.rotateRight_eq_rotateRightAux_of_lt hr, BitVec.rotateRightAux]
  obtain rfl | hpos := Nat.eq_zero_or_pos r
  · simp
  · rw [Nat.mod_eq_of_lt (by omega)]

/-- A bit above the top wraps around to the bottom. -/
theorem getLsbD_rotateRight_eq (hr : r < n) (hi : i < n) :
    (v.rotateRight r).getLsbD i = v.getLsbD ((i + r) % n) := by
  rw [BitVec.getLsbD_rotateRight_of_lt hr]
  by_cases hwrap : i < n - r
  · rw [decide_eq_true hwrap, cond_true, Nat.mod_eq_of_lt (by omega), Nat.add_comm]
  · have hsource : (i + r) % n = i - (n - r) := by
      rw [Nat.mod_eq_sub_mod (by omega), Nat.mod_eq_of_lt (by omega)]
      omega
    rw [decide_eq_false hwrap, cond_false, decide_eq_true hi, Bool.true_and, hsource]
end

theorem rotr32_eq_rotateRight (v : BitVec 32) {r : Nat} (hr : r < 32) : rotr32 v r = v.rotateRight r :=
  orN_shrN_shlN_eq_rotateRight v hr

theorem rotr64_eq_rotateRight (v : BitVec 64) {r : Nat} (hr : r < 64) : rotr64 v r = v.rotateRight r :=
  orN_shrN_shlN_eq_rotateRight v hr

/-- Settles O29: the two shifts are the library's rotation, which takes bit `i` from `r` places above, around the top. -/
theorem rotateRightMovesBits : Obligations.RotateRightMovesBits :=
  ⟨fun v _ _ hr hi => rotr32_eq_rotateRight v hr ▸ getLsbD_rotateRight_eq v hr hi,
    fun v _ _ hr hi => rotr64_eq_rotateRight v hr ▸ getLsbD_rotateRight_eq v hr hi⟩

/-! ## The step and the seed as integers (R201, R203, R231, R233) -/

section
variable {n : Nat}

theorem stepN_eq_ofNat (M C x : BitVec n) : stepN M C x = BitVec.ofNat n (x.toNat * M.toNat + C.toNat) := by
  simp [stepN_eq, BitVec.ofNat_add, BitVec.ofNat_mul]

/-- The shift leaves bit 0 free, so setting it adds 1. -/
theorem orN_shlN_one (a : BitVec n) : orN (shlN a 1) 1 = BitVec.ofNat n (2 * a.toNat + 1) := by
  have hfree : a <<< 1 &&& 1#n = 0#n := by
    ext i hi
    cases i <;> simp
  apply BitVec.eq_of_toNat_eq
  calc (orN (shlN a 1) 1).toNat = (a <<< 1 + 1#n).toNat := by
        rw [orN, shlN_eq]
        exact congrArg BitVec.toNat (BitVec.add_eq_or_of_and_eq_zero _ _ hfree).symm
    _ = (BitVec.ofNat n (2 * a.toNat + 1)).toNat := by
        simp [BitVec.toNat_add, Nat.shiftLeft_eq, Nat.mul_comm]

/-- The first step of a seed, from state 0, leaves the increment; the second is a step from there plus `initState`. -/
theorem stepN_addN_stepN_zero (M C initState : BitVec n) :
    stepN M C (addN (stepN M C 0) initState) =
      BitVec.ofNat n ((C.toNat + initState.toNat) * M.toNat + C.toNat) := by
  simp [stepN_eq, addN_eq, BitVec.ofNat_add, BitVec.ofNat_mul]
end

/-- R203 in closed form. -/
theorem seed32_eq {initState initSeq : BitVec 64} {inc : Nat} (hinc : inc = (2 * initSeq.toNat + 1) % 2 ^ 64) :
    seed32 initState initSeq =
      (BitVec.ofNat 64 ((inc + initState.toNat) * 6364136223846793005 + inc), BitVec.ofNat 64 inc) := by
  have hword : orN (shlN initSeq 1) 1 = BitVec.ofNat 64 inc := by
    apply BitVec.eq_of_toNat_eq
    rw [orN_shlN_one, BitVec.toNat_ofNat, BitVec.toNat_ofNat, hinc, Nat.mod_mod]
  have hvalue : (BitVec.ofNat 64 inc).toNat = inc := by
    rw [BitVec.toNat_ofNat, hinc, Nat.mod_mod]
  have hstate := stepN_addN_stepN_zero multiplier64 (BitVec.ofNat 64 inc) initState
  rw [hvalue] at hstate
  rw [seed32, hword]
  exact Prod.ext hstate rfl

/-- Settles O18: the effect of SEED32 reads nothing of the engines, and what it writes is the closed form. -/
theorem seed32OverwritesEngine : Obligations.Seed32OverwritesEngine := by
  refine ⟨by decide, fun s r rest inc h hinc => ?_⟩
  rw [← toNat_opB] at hinc
  rw [← toNat_opA, exec_of_done (i := .seed32) h rfl, seed32_eq hinc]
  rfl

/-! ## Commands on an unseeded and on a seeded engine (R304) -/

section
variable {core : CoreState}

theorem withE32_of_unseeded (he : core.e32 = none) (f : EngineState 64 → CommandResult) :
    withE32 core f = .raised .notSeeded := by
  simp only [withE32, he]

theorem withE32_of_seeded {e : EngineState 64} (he : core.e32 = some e) (f : EngineState 64 → CommandResult) :
    withE32 core f = f e := by
  simp only [withE32, he]

theorem withE64_of_unseeded (he : core.e64 = none) (f : EngineState 128 → CommandResult) :
    withE64 core f = .raised .notSeeded := by
  simp only [withE64, he]

theorem withE64_of_seeded {e : EngineState 128} (he : core.e64 = some e) (f : EngineState 128 → CommandResult) :
    withE64 core f = f e := by
  simp only [withE64, he]
end

/-! ## NEXT32 (R202, R205) -/

/-- XSH-RR on integers: the xorshift is cut to 32 bits and rotated by the top five bits, which are below 32. -/
theorem output32_eq (p : BitVec 64) :
    output32 p =
      (BitVec.ofNat 32 ((p.toNat / 2 ^ 18 ^^^ p.toNat) / 2 ^ 27)).rotateRight (p.toNat / 2 ^ 59) := by
  have hrot : (shrN p 59).toNat = p.toNat / 2 ^ 59 := by rw [toNat_shrN, if_pos (by decide)]
  have hxor : (xorN (shrN p 18) p).toNat = p.toNat / 2 ^ 18 ^^^ p.toNat := by
    rw [xorN, BitVec.toNat_xor, toNat_shrN, if_pos (by decide)]
  have hword : truncN 32 (shrN (xorN (shrN p 18) p) 27) =
      BitVec.ofNat 32 ((p.toNat / 2 ^ 18 ^^^ p.toNat) / 2 ^ 27) := by
    apply BitVec.eq_of_toNat_eq
    rw [toNat_truncN, toNat_shrN, if_pos (by decide), hxor, BitVec.toNat_ofNat]
  have hlt : p.toNat / 2 ^ 59 < 32 := by omega
  rw [output32, hrot, hword, rotr32_eq_rotateRight _ hlt]

theorem effect_next32 {core : CoreState} {e : EngineState 64} (he : core.e32 = some e) (r : Request) :
    effect .next32 r core = .done (core.moveE32 e (step32 e.state e.inc)) (onPort (output32 e.state)) unusedPort :=
  withE32_of_seeded he _

/-- Settles O20: NEXT32 answers `output32` of the state it then steps from. -/
theorem next32OutputsPreStepState : Obligations.Next32OutputsPreStepState := by
  refine ⟨by decide, fun s r rest h => ⟨fun he => ?unseeded, fun p inc he => ?seeded⟩⟩
  case unseeded => exact exec_of_raised h (withE32_of_unseeded he _)
  case seeded =>
    have hstep : step32 p inc = BitVec.ofNat 64 (p.toNat * 6364136223846793005 + inc.toNat) :=
      stepN_eq_ofNat multiplier64 inc p
    rw [exec_of_done h (effect_next32 he r), ← output32_eq, ← hstep]
    rfl

/-! ## ADVANCE (R213, R243) -/

/-- Settles O31: ADVANCE is the recurrence stepped as many times as its operand says. -/
theorem advanceMovesEngineByDelta : Obligations.AdvanceMovesEngineByDelta := by
  refine ⟨by decide, by decide, fun s r rest h =>
    ⟨fun he => exec_of_raised h (withE32_of_unseeded he _), fun p inc he => ?advance32,
      fun he => exec_of_raised h (withE64_of_unseeded he _), fun p inc he => ?advance64⟩⟩
  case advance32 =>
    rw [exec_of_done h (effect_advance32 he r), toNat_opA]
    rfl
  case advance64 =>
    rw [exec_of_done h (effect_advance64 he r), opA_128]
    rfl

/-! ## The threshold of a bounded draw (R206, R236) -/

/-- One subtraction of the modulus is taken at least, and what is left is below the modulus as well. -/
theorem two_mul_mod_lt {b N : Nat} (hb : 0 < b) (hle : b ≤ N) : 2 * (N % b) < N := by
  have hlt : N % b < b := Nat.mod_lt _ hb
  have hrest : N % b ≤ N - b := Nat.mod_eq_sub_mod hle ▸ Nat.mod_le _ _
  omega

section
variable {n : Nat} {b : BitVec n}

/-- The negation at the width of the draws is `2 ^ n - b`, which leaves the remainder of `2 ^ n` (R209). -/
theorem toNat_neg_umod (hb : b ≠ 0) : (-b % b).toNat = 2 ^ n % b.toNat := by
  have hpos := toNat_pos_of_ne_zero hb
  rw [BitVec.toNat_umod, BitVec.toNat_neg, Nat.mod_eq_of_lt (Nat.sub_lt (Nat.two_pow_pos n) hpos),
    ← Nat.mod_eq_sub_mod b.isLt.le]

theorem lt_neg_umod_iff (hb : b ≠ 0) (x : BitVec n) : x < -b % b ↔ x.toNat < 2 ^ n % b.toNat := by
  rw [BitVec.lt_def, toNat_neg_umod hb]

/-- The facts of R206 and R209, at the width of either engine's output. -/
theorem neg_umod_spec (hb : b ≠ 0) :
    (-b % b).toNat = 2 ^ n % b.toNat ∧ -b % b < b ∧ 2 * (-b % b).toNat < 2 ^ n ∧
      b.toNat ∣ 2 ^ n - (-b % b).toNat := by
  have hpos := toNat_pos_of_ne_zero hb
  rw [BitVec.lt_def, toNat_neg_umod hb]
  exact ⟨rfl, Nat.mod_lt _ hpos, two_mul_mod_lt hpos b.isLt.le, Nat.dvd_sub_mod _⟩
end

theorem threshold32_eq (b : BitVec 32) : threshold32 b = -b % b := by
  apply BitVec.eq_of_toNat_eq
  rw [threshold32, negN_eq, BitVec.toNat_ofNat, BitVec.toNat_umod,
    Nat.mod_eq_of_lt ((Nat.mod_le _ _).trans_lt (-b).isLt)]

/-- Settles O27: both thresholds are `-b % b` at the width of the draws. -/
theorem thresholdIsPowerModBound : Obligations.ThresholdIsPowerModBound := by
  constructor
  case left =>
    intro b hb
    obtain ⟨hvalue, hlt, hhalf, hdvd⟩ := neg_umod_spec hb
    rw [threshold32_eq]
    exact ⟨hvalue, hlt, by omega, hdvd⟩
  case right =>
    intro b hb
    obtain ⟨hvalue, hlt, hhalf, hdvd⟩ := neg_umod_spec hb
    exact ⟨-b % b, threshold64_of_ne_zero hb, hvalue, hlt, by omega, hdvd⟩

/-! ## The accepted draws are spread evenly over the residues (R209) -/

/-- Counting from `t` on is counting with `t` as the origin. -/
theorem count_le_and (p : Nat → Prop) [DecidablePred p] (t m : Nat) :
    Nat.count (fun x => t ≤ x ∧ p x) (t + m) = Nat.count (fun k => p (t + k)) m := by
  have hbelow : Nat.count (fun x => t ≤ x ∧ p x) t = 0 :=
    Nat.count_iff_forall_not.2 fun x hx hxt => hx.not_ge hxt.1
  simp [Nat.count_add, hbelow]

theorem count_mod_eq {b v : Nat} (hv : v < b) (N : Nat) :
    Nat.count (fun x => x % b = v) N = N / b + if v < N % b then 1 else 0 := by
  have hcard := Nat.count_modEq_card N (Nat.zero_lt_of_lt hv) v
  simpa only [Nat.ModEq, Nat.mod_eq_of_lt hv] using hcard

/-- Of all draws, one more than `N / b` has a given residue exactly where one rejected draw has it. -/
theorem count_accepted_residue {b v : Nat} (hv : v < b) (N : Nat) :
    Nat.count (fun x => N % b ≤ x ∧ x % b = v) N = (N - N % b) / b := by
  have hb : 0 < b := Nat.zero_lt_of_lt hv
  have hsplit : N % b + (N - N % b) = N := Nat.add_sub_cancel' (Nat.mod_le _ _)
  have hall := count_mod_eq hv N
  have hrejected := count_mod_eq hv (N % b)
  rw [Nat.mod_mod, Nat.div_eq_of_lt (Nat.mod_lt _ hb)] at hrejected
  have haccepted := count_le_and (fun x => x % b = v) (N % b) (N - N % b)
  have hsum := Nat.count_add (fun x => x % b = v) (N % b) (N - N % b)
  rw [hsplit] at haccepted hsum
  rw [haccepted, ← Nat.div_eq_sub_mod_div]
  omega

/-- Settles O28: the thresholds are `2 ^ W % b`, and the statement holds of every number in the place of `2 ^ W`. -/
theorem acceptedDrawsAreUniform : Obligations.AcceptedDrawsAreUniform := by
  have hne {n v : Nat} {b : BitVec n} (hv : v < b.toNat) : b ≠ 0 := fun h => by simp [h] at hv
  constructor
  case left =>
    intro b v hv
    rw [threshold32_eq, toNat_neg_umod (hne hv)]
    exact count_accepted_residue hv (2 ^ 32)
  case right =>
    intro b t v ht hv
    cases (threshold64_of_ne_zero (hne hv)).symm.trans ht
    rw [toNat_neg_umod (hne hv)]
    exact count_accepted_residue hv (2 ^ 64)

/-! ## The draws an engine can make (R207, R214, R237, R244) -/

section
variable {n : Nat} (f : BitVec n → BitVec n) (p : BitVec n)

/-- There are more numbers of steps up to `2 ^ n` than states, so that two of them end in one state. -/
theorem exists_iterate_eq_iterate : ∃ a b, a < b ∧ b ≤ 2 ^ n ∧ f^[a] p = f^[b] p := by
  obtain ⟨a, b, hne, hstate⟩ :=
    Fintype.exists_ne_map_eq_of_card_lt (fun k : Fin (2 ^ n + 1) => (f^[k] p).toFin) (by simp)
  have heq : f^[a] p = f^[b] p := BitVec.eq_of_toFin_eq hstate
  obtain hlt | hgt := lt_or_gt_of_ne hne
  · exact ⟨a, b, hlt, Nat.le_of_lt_succ b.isLt, heq⟩
  · exact ⟨b, a, hgt, Nat.le_of_lt_succ a.isLt, heq.symm⟩

/-- An orbit has come to all of its states within as many steps as there are states: later numbers of steps can leave
out a loop. -/
theorem exists_lt_iterate_eq (k : Nat) : ∃ j, j < 2 ^ n ∧ f^[j] p = f^[k] p := by
  obtain ⟨a, b, hab, hb, hloop⟩ := exists_iterate_eq_iterate f p
  induction k using Nat.strong_induction_on with
  | _ k ih =>
    by_cases hk : k < 2 ^ n
    · exact ⟨k, hk, rfl⟩
    · have hshort : f^[k - b + a] p = f^[k] p := by
        rw [Function.iterate_add_apply, hloop, ← Function.iterate_add_apply, Nat.sub_add_cancel (by omega)]
      obtain ⟨j, hj, hstate⟩ := ih (k - b + a) (by omega)
      exact ⟨j, hj, hstate.trans hshort⟩
end

section
variable {S W : Nat} {next : BitVec S → BitVec S × BitVec W} {t : BitVec W} {p : BitVec S} {k : Nat}

/-- Draw `k` from `p` is the first that is not below the threshold. -/
structure FirstAccepted (next : BitVec S → BitVec S × BitVec W) (t : BitVec W) (p : BitVec S) (k : Nat) : Prop where
  rejected : ∀ j, j < k → drawNumber next j p < t
  accepted : ¬ drawNumber next k p < t

/-- Where some draw is accepted, there is a first. -/
theorem exists_firstAccepted (h : ∃ j, ¬ drawNumber next j p < t) : ∃ k, FirstAccepted next t p k :=
  ⟨Nat.find h, fun _ hj => not_not.1 (Nat.find_min h hj), Nat.find_spec h⟩

/-- A draw is made from one of the states, which an earlier draw was made from if `k` is as many as there are. -/
theorem FirstAccepted.lt_two_pow (h : FirstAccepted next t p k) : k < 2 ^ S := by
  obtain ⟨j, hj, hstate⟩ := exists_lt_iterate_eq (fun x => (next x).1) p k
  have hdraw : drawNumber next j p = drawNumber next k p := congrArg (fun q => (next q).2) hstate
  by_contra hk
  exact h.accepted (hdraw ▸ h.rejected j (by omega))

/-- A loop of as many draws as there are states reaches the first accepted draw, wherever it is. -/
theorem FirstAccepted.drawWithin_eq (h : FirstAccepted next t p k) :
    drawWithin next t (Config.drawLevels S) p = .accepted (stateAfter next (k + 1) p) (drawNumber next k p) :=
  drawWithin_accepted next t S p k h.lt_two_pow h.rejected h.accepted

/-- The first accepted draw in integers, at the threshold of a bound `b`. -/
theorem firstAccepted_iff {b : BitVec W} (hb : b ≠ 0) :
    FirstAccepted next (-b % b) p k ↔
      (∀ j, j < k → (drawNumber next j p).toNat < 2 ^ W % b.toNat) ∧
        2 ^ W % b.toNat ≤ (drawNumber next k p).toNat := by
  simp only [← Nat.not_lt, ← lt_neg_umod_iff hb]
  exact ⟨fun ⟨hrejected, haccepted⟩ => ⟨hrejected, haccepted⟩, fun ⟨hrejected, haccepted⟩ => ⟨hrejected, haccepted⟩⟩

/-- What holds where every draw is rejected, and not where one is the first accepted, says that every draw is. -/
theorem iff_all_rejected {q : Prop} (hall : (∀ j, drawNumber next j p < t) → q)
    (hfirst : ∀ k, FirstAccepted next t p k → ¬ q) : q ↔ ∀ j, drawNumber next j p < t := by
  refine ⟨fun hq => ?_, hall⟩
  by_contra hsome
  obtain ⟨k, hk⟩ := exists_firstAccepted (not_forall.1 hsome)
  exact hfirst k hk hq
end

/-! ## The bounded draws as commands -/

/-- A command that never ends stops the machine (R214, R244). -/
theorem exec_of_endless {s : State} {r : Request} {rest : List Input} {i : Instr} (h : s.inputs = .command r :: rest)
    (he : effect i r s.core = .endless) : exec i s = .fault .drawNeverAccepted := by
  rw [exec_eq_runCommand, runCommand_of_command h, he, State.settle_endless]

/-- A bound is 0 as a value exactly where it is 0 as an integer. -/
theorem opA_eq_zero_iff {k : Nat} {r : Request} : opA k r = 0 ↔ r.opa.toNat % 2 ^ k = 0 := by
  rw [← toNat_opA, ← BitVec.toNat_inj]
  exact Iff.rfl

section
variable {s : State} {r : Request} {rest : List Input} {p inc : BitVec 64} {k : Nat}

theorem effect_bnext32 {core : CoreState} {e : EngineState 64} (he : core.e32 = some e) (r : Request) :
    effect .bnext32 r core = bnext32 core e (opA 32 r) :=
  withE32_of_seeded he _

section
variable (h : s.inputs = .command r :: rest) (he : s.core.e32 = some { state := p, inc := inc })
include h he

theorem exec_bnext32_of_zero (hb : opA 32 r = 0) :
    exec .bnext32 s = .next (served s rest s.core (.fault .divZero)) :=
  exec_of_raised h ((effect_bnext32 he r).trans (hb ▸ bnext32_zero s.core _))

variable (hb : opA 32 r ≠ 0)
include hb

/-- BNEXT32 answers the first accepted draw, modulo the bound, from the state it was made from on (R207). -/
theorem exec_bnext32_of_firstAccepted (hk : FirstAccepted (next32 · inc) (-opA 32 r % opA 32 r) p k) :
    exec .bnext32 s = .next (served s rest
      { e32 := some { state := (fun x => step32 x inc)^[k + 1] p, inc := inc }, e64 := s.core.e64 }
      (.ok (BitVec.ofNat 128 ((drawNumber (next32 · inc) k p).toNat % (opA 32 r).toNat)) 0)) := by
  have hdraws := hk.drawWithin_eq
  rw [← threshold32_eq] at hdraws
  have hvalue : (BitVec.ofNat 32 ((drawNumber (next32 · inc) k p).toNat % (opA 32 r).toNat)).toNat =
      (drawNumber (next32 · inc) k p).toNat % (opA 32 r).toNat :=
    Nat.mod_eq_of_lt ((Nat.mod_le _ _).trans_lt (drawNumber (next32 · inc) k p).isLt)
  rw [exec_of_done h ((effect_bnext32 he r).trans (bnext32_of_accepted s.core hb hdraws)), onPort_eq_ofNat, hvalue]
  rfl

/-- BNEXT32 stops the machine exactly where every draw is rejected (R214). -/
theorem exec_bnext32_fault_iff : exec .bnext32 s = .fault .drawNeverAccepted ↔
    ∀ j, drawNumber (next32 · inc) j p < -opA 32 r % opA 32 r := by
  refine iff_all_rejected (fun hall => ?all) fun k hk => ?first
  case all =>
    have hdraws := drawWithin_rejected (next32 · inc) _ (Config.drawLevels 64) p fun j _ => hall j
    rw [← threshold32_eq] at hdraws
    exact exec_of_endless h ((effect_bnext32 he r).trans (bnext32_of_rejected s.core hb hdraws))
  case first =>
    rw [exec_bnext32_of_firstAccepted h he hb hk]
    exact nofun
end
end

section
variable {s : State} {r : Request} {rest : List Input} {p inc : BitVec 128} {k : Nat}

theorem effect_bnext64 {core : CoreState} {e : EngineState 128} (he : core.e64 = some e) (r : Request) :
    effect .bnext64 r core = bnext64 core e (opA 64 r) :=
  withE64_of_seeded he _

variable (h : s.inputs = .command r :: rest) (he : s.core.e64 = some { state := p, inc := inc })
  (hb : opA 64 r ≠ 0)
include h he hb

/-- BNEXT64 answers the first accepted draw, modulo the bound, and leaves the state that draw was made from (R237). -/
theorem exec_bnext64_of_firstAccepted (hk : FirstAccepted (next64 · inc) (-opA 64 r % opA 64 r) p k) :
    exec .bnext64 s = .next (served s rest
      { e32 := s.core.e32, e64 := some { state := (fun x => step64 x inc)^[k + 1] p, inc := inc } }
      (.ok (BitVec.ofNat 128 ((drawNumber (next64 · inc) k p).toNat % (opA 64 r).toNat)) 0)) := by
  rw [exec_of_done h ((effect_bnext64 he r).trans (bnext64_of_accepted s.core hb hk.drawWithin_eq)), onPort_eq_ofNat,
    BitVec.toNat_umod]
  rfl

/-- BNEXT64 stops the machine exactly where every draw is rejected (R244). -/
theorem exec_bnext64_fault_iff : exec .bnext64 s = .fault .drawNeverAccepted ↔
    ∀ j, drawNumber (next64 · inc) j p < -opA 64 r % opA 64 r := by
  refine iff_all_rejected (fun hall => ?all) fun k hk => ?first
  case all =>
    have hdraws := drawWithin_rejected (next64 · inc) _ (Config.drawLevels 128) p fun j _ => hall j
    exact exec_of_endless h ((effect_bnext64 he r).trans (bnext64_of_rejected s.core hb hdraws))
  case first =>
    rw [exec_bnext64_of_firstAccepted h he hb hk]
    exact nofun
end

/-- Settles O22: the conditions on the draws say which draw is the first accepted one. -/
theorem bnext32AnswersFirstAcceptedDraw : Obligations.Bnext32AnswersFirstAcceptedDraw := by
  refine ⟨by decide, fun s r rest h => ⟨fun he => ?unseeded, fun p inc bound he hbound => ?seeded⟩⟩
  case unseeded => exact exec_of_raised h (withE32_of_unseeded he _)
  case seeded =>
    rw [← toNat_opA] at hbound
    subst hbound
    split
    next hb => exact exec_bnext32_of_zero h he (BitVec.eq_of_toNat_eq hb)
    next hb =>
      intro k hrejected haccepted
      have hne : opA 32 r ≠ 0 := mt (congrArg BitVec.toNat) hb
      exact exec_bnext32_of_firstAccepted h he hne ((firstAccepted_iff hne).2 ⟨hrejected, haccepted⟩)

/-- Settles O24: within one period the greatest draw comes, which no threshold is above, so there is a first accepted
draw. -/
theorem bnext32AlwaysCompletes : Obligations.Bnext32AlwaysCompletes := by
  intro s r rest p inc h he hinc hb
  obtain ⟨j, -, hmax⟩ := exists_next32_drawNumber_eq_allOnes hinc p
  obtain ⟨k, hk⟩ := exists_firstAccepted (t := -opA 32 r % opA 32 r) ⟨j, hmax ▸ BitVec.not_allOnes_lt⟩
  refine ⟨_, _, ?_, exec_bnext32_of_firstAccepted h he (mt opA_eq_zero_iff.1 hb) hk⟩
  rw [toNat_opA, BitVec.toNat_ofNat]
  exact (Nat.mod_le _ _).trans_lt (Nat.mod_lt _ (Nat.pos_of_ne_zero hb))

/-- Settles O26: a loop of as many draws as there are states misses no draw that could be accepted. -/
theorem boundedDrawStopsOnlyIfEndless : Obligations.BoundedDrawStopsOnlyIfEndless := by
  refine fun s r rest h => ⟨fun p inc he hb => ?engine32, fun p inc he hb => ?engine64⟩
  case engine32 =>
    have hne := mt opA_eq_zero_iff.1 hb
    simp only [exec_bnext32_fault_iff h he hne, lt_neg_umod_iff hne, toNat_opA]
    exact Iff.rfl
  case engine64 =>
    have hne := mt opA_eq_zero_iff.1 hb
    simp only [exec_bnext64_fault_iff h he hne, lt_neg_umod_iff hne, toNat_opA, drawNumber_next64]
    exact Iff.rfl

end Sys2Proof.Machine

/-! # Engine-64 as commands (spec/45_engine64.md) -/

namespace Sys2Proof.Machine

open Sys2Proof.Certificates

/-! ## SEED64 (R233) -/

theorem toNat_orN_shlN_one {n inc : Nat} {a : BitVec n} (hinc : inc = (2 * a.toNat + 1) % 2 ^ n) :
    (orN (shlN a 1) 1).toNat = inc := by
  rw [orN_shlN_one, BitVec.toNat_ofNat, hinc]

/-- R233 in closed form. -/
theorem seed64_eq {initState initSeq : BitVec 128} {inc : Nat} (hinc : inc = (2 * initSeq.toNat + 1) % 2 ^ 128) :
    seed64 initState initSeq =
      (BitVec.ofNat 128 ((inc + initState.toNat) * 47026247687942121848144207491837523525 + inc),
        BitVec.ofNat 128 inc) := by
  rw [← toNat_orN_shlN_one hinc]
  exact Prod.ext (stepN_addN_stepN_zero multiplier128 _ initState) (by simp [seed64])

/-- Settles O19: the effect of SEED64 reads nothing of the engines, and what it writes is the closed form. -/
theorem seed64OverwritesEngine : Obligations.Seed64OverwritesEngine := by
  refine ⟨by decide, fun s r rest inc h hinc => ?_⟩
  rw [← opB_128] at hinc
  rw [← opA_128, exec_of_done (i := .seed64) h rfl, seed64_eq hinc]
  rfl

/-! ## NEXT64 (R232, R235) -/

/-- XSL-RR on integers: the xor of the limbs rotated by the top six bits, which the cuts to 32 bits and below 64 leave
whole. -/
theorem output64_eq (q : BitVec 128) :
    output64 q = (BitVec.ofNat 64 (q.toNat / 2 ^ 64 ^^^ q.toNat % 2 ^ 64)).rotateRight (q.toNat / 2 ^ 122) := by
  have hlt : q.toNat / 2 ^ 122 < 64 := by omega
  have hrot : (truncN 32 (shrN q 122)).toNat % 64 = q.toNat / 2 ^ 122 := by
    rw [toNat_truncN, toNat_shrN, if_pos (by decide)]
    omega
  have hhigh : q.extractLsb' 64 64 = BitVec.ofNat 64 (q.toNat / 2 ^ 64) := by
    rw [BitVec.extractLsb', Nat.shiftRight_eq_div_pow]
  have hlow : q.extractLsb' 0 64 = BitVec.ofNat 64 (q.toNat % 2 ^ 64) := by
    rw [BitVec.extractLsb', Nat.shiftRight_zero]
    exact BitVec.eq_of_toNat_eq (by simp only [BitVec.toNat_ofNat, Nat.mod_mod])
  rw [output64, hrot, hhigh, hlow, xorN, ← BitVec.ofNat_xor, rotr64_eq_rotateRight _ hlt]

theorem effect_next64 {core : CoreState} {e : EngineState 128} (he : core.e64 = some e) (r : Request) :
    effect .next64 r core =
      .done (core.moveE64 e (step64 e.state e.inc)) (onPort (output64 (step64 e.state e.inc))) unusedPort :=
  withE64_of_seeded he _

/-- Settles O21: NEXT64 steps first, and answers `output64` of the state it leaves. -/
theorem next64OutputsPostStepState : Obligations.Next64OutputsPostStepState := by
  refine ⟨by decide, fun s r rest h => ⟨fun he => ?unseeded, fun p q inc he hq => ?seeded⟩⟩
  case unseeded => exact exec_of_raised h (withE64_of_unseeded he _)
  case seeded =>
    have hstep : step64 p inc = q := (stepN_eq_ofNat multiplier128 inc p).trans hq.symm
    rw [exec_of_done h (effect_next64 he r), hstep, output64_eq]
    rfl

/-! ## BNEXT64 (R237, R242, R244) -/

section
variable {s : State} {r : Request} {rest : List Input} {p inc : BitVec 128}

theorem exec_bnext64_of_zero {e : EngineState 128} (h : s.inputs = .command r :: rest) (he : s.core.e64 = some e)
    (hb : opA 64 r = 0) : exec .bnext64 s = .next (served s rest s.core (.fault .divZero)) :=
  exec_of_raised h ((effect_bnext64 he r).trans (hb ▸ bnext64_zero s.core _))

/-- The greatest draw, which comes within one period (R25), is below no threshold. -/
theorem exists_firstAccepted_next64 (hinc : inc.getLsbD 0 = true) (t : BitVec 64) (p : BitVec 128) :
    ∃ k, FirstAccepted (next64 · inc) t p k := by
  obtain ⟨j, -, hmax⟩ := exists_next64_drawNumber_eq_allOnes hinc p
  exact exists_firstAccepted ⟨j, hmax ▸ BitVec.not_allOnes_lt⟩
end

/-- Settles O23: the conditions on the draws, each the output of the state just stepped to, say which draw is the first
accepted one. -/
theorem bnext64AnswersFirstAcceptedDraw : Obligations.Bnext64AnswersFirstAcceptedDraw := by
  refine ⟨by decide, fun s r rest h => ⟨fun he => ?unseeded, fun p inc bound he hbound => ?seeded⟩⟩
  case unseeded => exact exec_of_raised h (withE64_of_unseeded he _)
  case seeded =>
    rw [← toNat_opA] at hbound
    subst hbound
    split
    next hb => exact exec_bnext64_of_zero h he (BitVec.eq_of_toNat_eq hb)
    next hb =>
      intro k hrejected haccepted
      have hne : opA 64 r ≠ 0 := mt (congrArg BitVec.toNat) hb
      have hdraw (j : Nat) : drawNumber (next64 · inc) j p = output64 ((fun x => step64 x inc)^[j + 1] p) :=
        drawNumber_next64 inc p j
      simp only [← hdraw] at hrejected haccepted ⊢
      exact exec_bnext64_of_firstAccepted h he hne ((firstAccepted_iff hne).2 ⟨hrejected, haccepted⟩)

/-- Settles O25: an odd increment has a first accepted draw at every threshold, and its remainder is below the bound. -/
theorem bnext64AlwaysCompletes : Obligations.Bnext64AlwaysCompletes := by
  intro s r rest p inc h he hinc hb
  obtain ⟨k, hk⟩ := exists_firstAccepted_next64 hinc (-opA 64 r % opA 64 r) p
  refine ⟨_, _, ?_, exec_bnext64_of_firstAccepted h he (mt opA_eq_zero_iff.1 hb) hk⟩
  rw [toNat_opA, BitVec.toNat_ofNat]
  exact (Nat.mod_le _ _).trans_lt (Nat.mod_lt _ (Nat.pos_of_ne_zero hb))

end Sys2Proof.Machine

/-! # The jump-ahead unit: its equations and its commands (spec/46_advance.md) -/

namespace Sys2Proof.Machine

/-- Settles O30: the loop composes steps at every width. -/
theorem advanceEqualsRepeatedSteps : Obligations.AdvanceEqualsRepeatedSteps :=
  ⟨advanceN_eq_iterate, advanceN_eq_iterate⟩

/-! ## Edge values and rewinding (R263) -/

section
variable {n : Nat} (M C x : BitVec n)

theorem advanceN_zero : advanceN x 0 M C = x := by
  rw [advanceN_eq_iterate, BitVec.ofNat_eq_ofNat, BitVec.toNat_zero, Function.iterate_zero, id]

theorem advanceN_one (hn : 0 < n) : advanceN x 1 M C = stepN M C x := by
  rw [advanceN_eq_iterate, BitVec.ofNat_eq_ofNat, BitVec.toNat_one hn, Function.iterate_one]

variable {M C}

theorem negN_eq_ofNat (k : BitVec n) : negN k = BitVec.ofNat n (2 ^ n - k.toNat) :=
  BitVec.eq_of_toNat_eq (by rw [toNat_negN, BitVec.toNat_ofNat])

/-- With an odd increment, an advance by `2 ^ n - k` undoes one by `k`. -/
theorem advanceN_two_pow_sub_advanceN (hM : M.toNat % 4 = 1) (hM1 : M.toNat ≠ 1) (hC : C.getLsbD 0 = true)
    (k : BitVec n) : advanceN (advanceN x k M C) (BitVec.ofNat n (2 ^ n - k.toNat)) M C = x := by
  have hback := iterate_negN_iterate hM hM1 hC k.toNat x
  rwa [BitVec.ofNat_toNat, BitVec.setWidth_eq, negN_eq_ofNat, ← advanceN_eq_iterate, ← advanceN_eq_iterate] at hback
end

/-- Settles O34: no step, one step, and as many steps as complete a number of periods. -/
theorem advanceRewinds : Obligations.AdvanceRewinds :=
  ⟨fun x C k => ⟨advanceN_zero _ C x, advanceN_one _ C x (by decide),
      fun hC => advanceN_two_pow_sub_advanceN x (by decide) (by decide) hC k⟩,
    fun x C k => ⟨advanceN_zero _ C x, advanceN_one _ C x (by decide),
      fun hC => advanceN_two_pow_sub_advanceN x (by decide) (by decide) hC k⟩⟩

/-! ## Runs of NEXT commands, and the run of one ADVANCE and one NEXT (R262) -/

/-- The command of request `r` completes on the engines `core`: it leaves `core'` and answers `res0` alone. -/
def Completes (r : Request) (core core' : CoreState) (res0 : Port) : Prop :=
  ∃ i, decode r.cmd = .ok i ∧ effect i r core = .done core' res0 unusedPort

theorem Completes.step_eq {s : State} {r : Request} {rest : List Input} {core' : CoreState} {res0 : Port}
    (h : Completes r s.core core' res0) (hin : s.inputs = .command r :: rest) :
    step s = .next (s.respond rest core' (.ok res0 unusedPort)) := by
  obtain ⟨i, hd, he⟩ := h
  rw [step_of_decode hin hd, he, State.settle_done]

section
variable {S : Nat} {put : BitVec S → CoreState} {f : BitVec S → BitVec S} {out : BitVec S → Port}
  {next advance : Request} {p : BitVec S} (hnext : ∀ p, Completes next (put p) (put (f p)) (out p))
include hnext

/-- A run of `k + 1` NEXT commands on an engine whose state `put` places among the engines: it steps the state `k + 1`
times, and its last output is the one drawn from the state after `k` steps. -/
theorem runsTo_of_nexts (k : Nat) {s : State} (hcore : s.core = put p)
    (hin : s.inputs = List.replicate (k + 1) (.command next)) :
    ∃ t, s.RunsTo (k + 1) t ∧ t.core = put (f^[k + 1] p) ∧
      t.responses.getLast? = some (.ok (out (f^[k] p)) unusedPort) := by
  induction k generalizing s p with
  | zero => exact ⟨_, .succ ((hcore ▸ hnext p).step_eq hin) (.zero _), rfl, List.getLast?_concat⟩
  | succ k ih =>
    obtain ⟨t, hrun, hengines, hlast⟩ :=
      ih (s := s.respond (List.replicate (k + 1) (.command next)) (put (f p)) (.ok (out p) unusedPort)) rfl rfl
    exact ⟨t, .succ ((hcore ▸ hnext p).step_eq hin) hrun, hengines, hlast⟩

/-- Where ADVANCE steps the state `k` times, one NEXT after it ends as the last of `k + 1` NEXT commands does. -/
theorem advance_next_eq_nexts {k : Nat} (hadvance : Completes advance (put p) (put (f^[k] p)) unusedPort) :
    ∃ t u : State,
      State.RunsTo { core := put p, responses := [], inputs := [.command advance, .command next] } 2 t ∧
      State.RunsTo { core := put p, responses := [], inputs := List.replicate (k + 1) (.command next) } (k + 1) u ∧
      t.core = u.core ∧ t.responses.getLast? = u.responses.getLast? := by
  obtain ⟨t, ht, htcore, htlast⟩ := runsTo_of_nexts hnext 0
    (s := { core := put (f^[k] p), responses := [.ok unusedPort unusedPort], inputs := [.command next] }) rfl rfl
  obtain ⟨u, hu, hucore, hulast⟩ := runsTo_of_nexts hnext k
    (s := { core := put p, responses := [], inputs := List.replicate (k + 1) (.command next) }) rfl rfl
  have hengines : put (f^[k + 1] p) = put (f (f^[k] p)) := congrArg put (Function.iterate_succ_apply' f k p)
  exact ⟨t, u, .succ (hadvance.step_eq rfl) ht, hu, htcore.trans (hengines.symm.trans hucore.symm),
    htlast.trans hulast.symm⟩
end

section
variable (p inc : BitVec 64) (other : Option (EngineState 128))

theorem completes_next32 : Completes { cmd := 0x21, opa := 0, opb := 0 } ⟨some ⟨p, inc⟩, other⟩
    ⟨some ⟨step32 p inc, inc⟩, other⟩ (onPort (output32 p)) :=
  ⟨.next32, next32OutputsPreStepState.1, effect_next32 (e := ⟨p, inc⟩) rfl _⟩

theorem completes_advance32 (delta : BitVec 64) :
    Completes { cmd := 0x23, opa := delta.setWidth 128, opb := 0 } ⟨some ⟨p, inc⟩, other⟩
      ⟨some ⟨(step32 · inc)^[delta.toNat] p, inc⟩, other⟩ unusedPort := by
  have hopA : opA 64 { cmd := 0x23, opa := delta.setWidth 128, opb := 0 } = delta := truncN_onPort (by decide) delta
  refine ⟨.advance32, advanceMovesEngineByDelta.1, (effect_advance32 (e := ⟨p, inc⟩) rfl _).trans ?_⟩
  rw [hopA]
  rfl
end

section
variable (p inc : BitVec 128) (other : Option (EngineState 64))

theorem completes_next64 : Completes { cmd := 0x121, opa := 0, opb := 0 } ⟨other, some ⟨p, inc⟩⟩
    ⟨other, some ⟨step64 p inc, inc⟩⟩ (onPort (output64 (step64 p inc))) :=
  ⟨.next64, next64OutputsPostStepState.1, effect_next64 (e := ⟨p, inc⟩) rfl _⟩

theorem completes_advance64 (delta : BitVec 128) :
    Completes { cmd := 0x123, opa := delta, opb := 0 } ⟨other, some ⟨p, inc⟩⟩
      ⟨other, some ⟨(step64 · inc)^[delta.toNat] p, inc⟩⟩ unusedPort := by
  refine ⟨.advance64, advanceMovesEngineByDelta.2.1, (effect_advance64 (e := ⟨p, inc⟩) rfl _).trans ?_⟩
  rw [opA_128]
  rfl
end

/-- Settles O32: on each engine ADVANCE is as many steps as its operand says, and a NEXT is one. -/
theorem advanceThenNextEqualsNexts : Obligations.AdvanceThenNextEqualsNexts := by
  refine ⟨fun core delta hseeded => ?engine32, fun core delta hseeded => ?engine64⟩
  case engine32 =>
    obtain ⟨e32, e64⟩ := core
    obtain ⟨⟨p, inc⟩, rfl⟩ := Option.ne_none_iff_exists'.1 hseeded
    exact advance_next_eq_nexts (put := fun p => ⟨some ⟨p, inc⟩, e64⟩) (completes_next32 · inc e64)
      (completes_advance32 p inc e64 delta)
  case engine64 =>
    obtain ⟨e32, e64⟩ := core
    obtain ⟨⟨p, inc⟩, rfl⟩ := Option.ne_none_iff_exists'.1 hseeded
    exact advance_next_eq_nexts (put := fun p => ⟨e32, some ⟨p, inc⟩⟩) (completes_next64 · inc e32)
      (completes_advance64 p inc e32 delta)

end Sys2Proof.Machine

/-! # The faults and RESET (spec/60_exceptions.md, spec/70_reset_and_hazards.md) -/

namespace Sys2Proof.Machine

open Sys2Proof.Certificates

/-! ## A fault is a response, and a response depends on no earlier one (R310, R311) -/

section
variable {s t : State} {r : Request} {rest : List Input} {i : Instr} {code : FaultCode}

/-- Of the ways a command can end, only a raised fault answers a fault. -/
theorem State.settle_next_fault {result : CommandResult} (h : s.settle rest result = .next t)
    (hfault : t.responses = s.responses ++ [.fault code]) :
    result = .raised code ∧ t = s.raiseFault rest code := by
  cases result with
  | done core res0 res1 =>
    cases h
    cases List.append_cancel_left hfault
  | raised raisedCode =>
    cases h
    cases List.append_cancel_left hfault
    exact ⟨rfl, rfl⟩
  | endless => cases h

/-- An instruction that answers a fault has raised it. -/
theorem effect_of_exec_fault (h : exec i s = .next t) (hfault : t.responses = s.responses ++ [.fault code]) :
    ∃ r, effect i r s.core = .raised code := by
  obtain ⟨r, rest, hin, -⟩ := exec_next h
  rw [exec_eq_runCommand, runCommand_of_command hin] at h
  obtain ⟨hraised, -⟩ := State.settle_next_fault h hfault
  exact ⟨r, hraised⟩

theorem step_eq_exec (h : s.inputs = .command r :: rest) (hd : decode r.cmd = .ok i) : step s = exec i s :=
  (stepRunsDecodedInstruction s r rest i h hd).2
end

/-- Settles O45, by what is next: without a request no response comes, and of the ways a command can end only a raised
fault answers one. -/
theorem faultWritesNoState : Obligations.FaultWritesNoState := by
  intro s t code h hfault
  have hanswered : t.responses ≠ s.responses := by simp [hfault]
  cases hin : s.inputs with
  | nil =>
    cases (step_of_idle hin).symm.trans h
    rfl
  | cons x rest =>
    cases x with
    | reset =>
      cases (step_of_reset hin).symm.trans h
      exact absurd rfl hanswered
    | abandoned r =>
      cases (step_of_abandoned hin).symm.trans h
      exact absurd rfl hanswered
    | command r =>
      obtain ⟨result, hstep, -⟩ := step_of_command hin
      obtain ⟨-, rfl⟩ := State.settle_next_fault (hstep.symm.trans h) hfault
      rfl

/-- Settles O46: how a command ends is its effect, a function of the request and the engines alone. -/
theorem faultsAreNotSticky : Obligations.FaultsAreNotSticky := by
  intro i core inputs before t h
  obtain ⟨r, rest, hin, ⟨core', res0, res1, heff, rfl⟩ | ⟨code, heff, rfl⟩⟩ := exec_next h
  · exact exec_of_done hin heff
  · exact exec_of_raised hin heff

/-! ## Which commands raise which fault (R301, R305) -/

section
variable {core : CoreState} {code : FaultCode}

theorem withE32_raised {f : EngineState 64 → CommandResult} (h : withE32 core f = .raised code) :
    code = .notSeeded ∨ ∃ e, f e = .raised code := by
  unfold withE32 at h
  split at h
  next => cases h; exact .inl rfl
  next e _ => exact .inr ⟨e, h⟩

theorem withE64_raised {f : EngineState 128 → CommandResult} (h : withE64 core f = .raised code) :
    code = .notSeeded ∨ ∃ e, f e = .raised code := by
  unfold withE64 at h
  split at h
  next => cases h; exact .inl rfl
  next e _ => exact .inr ⟨e, h⟩

theorem bnext32_raised {e : EngineState 64} {bound : BitVec 32} (h : bnext32 core e bound = .raised code) :
    code = .divZero := by
  obtain hzero | ⟨p, v, hdone⟩ | ⟨hend, -⟩ := bnext32_cases core e bound
  · cases hzero.symm.trans h; rfl
  · cases hdone.symm.trans h
  · cases hend.symm.trans h

theorem bnext64_raised {e : EngineState 128} {bound : BitVec 64} (h : bnext64 core e bound = .raised code) :
    code = .divZero := by
  obtain hzero | ⟨p, v, hdone⟩ | ⟨hend, -⟩ := bnext64_cases core e bound
  · cases hzero.symm.trans h; rfl
  · cases hdone.symm.trans h
  · cases hend.symm.trans h

theorem divisionResult_raised {n : Nat} {result : Option (BitVec n × BitVec n)}
    (h : divisionResult core result = .raised code) : code = .divZero := by
  cases result with
  | none => cases h; rfl
  | some qr => cases h

/-- A cast raises its fault only for a width that is not listed. -/
theorem cast_raised {k : Nat} {legal : Bool} {v : BitVec k}
    (h : (if legal then oneResult core v else .raised .illegalCmd) = .raised code) : legal = false := by
  cases legal with
  | false => rfl
  | true => cases h

/-- The faults the commands raise: a division and a bounded draw DIV_ZERO, a command that reads its engine NOT_SEEDED,
and no well-formed instruction ILLEGAL_CMD. -/
theorem effect_raised {i : Instr} {r : Request} (hi : i.WellFormed) (h : effect i r core = .raised code) :
    (code = .divZero ∧ i ∈ [Instr.divrem64, .divrem128, .bnext32, .bnext64]) ∨
    (code = .notSeeded ∧ i ∈ [Instr.next32, .bnext32, .advance32, .next64, .bnext64, .advance64]) := by
  cases i with
  | divrem64 | divrem128 => exact .inl ⟨divisionResult_raised h, by decide⟩
  | bnext32 =>
    obtain hunseeded | ⟨e, he⟩ := withE32_raised h
    · exact .inr ⟨hunseeded, by decide⟩
    · exact .inl ⟨bnext32_raised he, by decide⟩
  | bnext64 =>
    obtain hunseeded | ⟨e, he⟩ := withE64_raised h
    · exact .inr ⟨hunseeded, by decide⟩
    · exact .inl ⟨bnext64_raised he, by decide⟩
  | next32 | advance32 =>
    obtain hunseeded | ⟨e, he⟩ := withE32_raised h
    · exact .inr ⟨hunseeded, by decide⟩
    · cases he
  | next64 | advance64 =>
    obtain hunseeded | ⟨e, he⟩ := withE64_raised h
    · exact .inr ⟨hunseeded, by decide⟩
    · cases he
  | trunc64 k | trunc128 k => cases hi.symm.trans (cast_raised h)
  | _ => cases h
end

/-- Settles O44: the fault answered is the one the command raised. -/
theorem onlyListedCommandsFault : Obligations.OnlyListedCommandsFault := by
  intro i s t code hi h hfault
  obtain ⟨r, hraised⟩ := effect_of_exec_fault h hfault
  exact effect_raised hi hraised

/-! ## The order of the faults (R308) -/

section
variable {core : CoreState} {i : Instr}

theorem effect_of_unseeded32 (hi : i ∈ [Instr.next32, .bnext32, .advance32]) (he : core.e32 = none) (r : Request) :
    effect i r core = .raised .notSeeded := by
  simp only [List.mem_cons, List.not_mem_nil, or_false] at hi
  obtain rfl | rfl | rfl := hi <;> exact withE32_of_unseeded he _

theorem effect_of_unseeded64 (hi : i ∈ [Instr.next64, .bnext64, .advance64]) (he : core.e64 = none) (r : Request) :
    effect i r core = .raised .notSeeded := by
  simp only [List.mem_cons, List.not_mem_nil, or_false] at hi
  obtain rfl | rfl | rfl := hi <;> exact withE64_of_unseeded he _
end

/-- Settles O43: the word is decoded before the engine is looked at, and the engine before the operands. -/
theorem faultPriorityIsR308 : Obligations.FaultPriorityIsR308 := by
  refine fun s r rest h => ⟨fun e hd => step_of_illegal h hd, fun i hi hd he => ?unseeded32,
    fun i hi hd he => ?unseeded64, fun hd he hb => ?bound32, fun hd he hb => ?bound64, fun hd hb => ?divisor64,
    fun hd hb => ?divisor128⟩
  all_goals rw [step_eq_exec h hd]
  case unseeded32 => exact exec_of_raised h (effect_of_unseeded32 hi he r)
  case unseeded64 => exact exec_of_raised h (effect_of_unseeded64 hi he r)
  case bound32 =>
    obtain ⟨e, hseeded⟩ := Option.ne_none_iff_exists'.1 he
    exact exec_bnext32_of_zero h hseeded (opA_eq_zero_iff.2 hb)
  case bound64 =>
    obtain ⟨e, hseeded⟩ := Option.ne_none_iff_exists'.1 he
    exact exec_bnext64_of_zero h hseeded (opA_eq_zero_iff.2 hb)
  case divisor64 => exact exec_of_zero_divisor (i := .divrem64) h rfl ((toNat_opB 64 r).trans hb)
  case divisor128 =>
    have hzero : (opB 128 r).toNat = 0 := by rw [opB_128, hb, BitVec.ofNat_eq_ofNat, BitVec.toNat_zero]
    exact exec_of_zero_divisor (i := .divrem128) h rfl hzero

/-! ## The status codes and RESET (R301, R340) -/

theorem FaultCode.status_lt (code : FaultCode) : code.status.toNat < 4 := by
  cases code <;> decide

/-- Settles O42: the codes are written out in the model, and a response has that of its fault, or 0. -/
theorem statusCodesAreR301 : Obligations.StatusCodesAreR301 := by
  refine ⟨fun _ _ => rfl, rfl, rfl, rfl, fun resp => ?_⟩
  cases resp with
  | ok res0 res1 => exact (by decide : (0 : Status).toNat < 4)
  | fault code => exact code.status_lt

/-- Settles O41: RESET, alone or at a request it abandons, is the one operation `resetBlock`. -/
theorem resetInputUnseedsBothEngines : Obligations.ResetInputUnseedsBothEngines :=
  fun _ _ _ => ⟨fun h => h.elim step_of_reset step_of_abandoned, step_of_idle⟩

end Sys2Proof.Machine
